-- ==== Sys2Proof/Word.lean ====
section
/-! DEFINITION. The widths of the machine's quantities (spec/00_scope.md R5, R7): all are unsigned. -/

namespace Sys2Proof

/-- A general register, a timer, a byte of memory: 8 bits (R5 `XLEN`, `TIMER_WIDTH`). -/
abbrev Byte := BitVec 8

/-- An instruction word, the program counter, the index register, a stack entry: 16 bits
(R5 `PC_WIDTH`, `I_WIDTH`, `STACK_DEPTH`, `ILEN`). -/
abbrev Word := BitVec 16

/-- A four-bit field of an instruction word (30_encoding.md R81). -/
abbrev Nibble := BitVec 4

/-- The index of a general register, 0x0 to 0xF (R5 `NREGS`). -/
abbrev Reg := Fin 16

end Sys2Proof
end

