-- ==== Sys2Proof/Machine/Flags.lean ====
section
/-! DEFINITION. The values of the flag `x[15]` (spec/10_state.md R22), each computed from the operands read before any write. -/

namespace Sys2Proof.Machine

/-- A flag as the byte it leaves in `x[15]`: 1 or 0. -/
def flagByte (b : Bool) : Byte := if b then 1 else 0

/-- 8xy4: the carry out of an 8-bit addition, `a + b > 255` (42_alu.md R146, R152). -/
def carryFlag (a b : Byte) : Byte := flagByte (decide (a.toNat + b.toNat > 255))

/-- 8xy5 and 8xy7: the minuend strictly greater than the subtrahend (42_alu.md R147, R149, R153). -/
def greaterFlag (minuend subtrahend : Byte) : Byte :=
  flagByte (decide (minuend.toNat > subtrahend.toNat))

/-- 8xy6: the low bit, which the shift moves out (42_alu.md R148). -/
def shiftOutLow (a : Byte) : Byte := flagByte (a.getLsbD 0)

/-- 8xyE: the high bit, which the shift moves out (42_alu.md R150). -/
def shiftOutHigh (a : Byte) : Byte := flagByte (a.getLsbD 7)

/-- Dxyn: 1 if a cell went from on to off (43_display.md R171, R173). -/
def collisionFlag (hit : Bool) : Byte := flagByte hit

end Sys2Proof.Machine
end

