-- ==== Sys2Proof/Syntax.lean ====
section
/-! DEFINITION. The 34 instructions of spec/30_encoding.md R84, one constructor each. -/

namespace Sys2Proof

/-- An instruction with its operands (30_encoding.md R81 to R84). `x` and `y` are the register indexes `X` and `Y`,
`nn` the immediate byte, `nnn` the 12-bit field "used as a 16-bit address with zero high bits" (R83), so it is held as
the 16-bit address it stands for, and `n` of DRW the row count. The fields the decoder extracts and the instruction
ignores (`N` of 5xyN and 9xyN, `Y` of 8xy6 and 8xyE, R87) are kept, so that no bit of a word is lost.
DESIGN CHOICE, safe (notes/assumptions/18.md). -/
inductive Instr where
  /-- 00E0 -/
  | cls
  /-- 00EE -/
  | ret
  /-- 1nnn -/
  | jp (nnn : Word)
  /-- 2nnn -/
  | call (nnn : Word)
  /-- 3xnn -/
  | seI (x : Reg) (nn : Byte)
  /-- 4xnn -/
  | sneI (x : Reg) (nn : Byte)
  /-- 5xyN, `n` ignored -/
  | seR (x y : Reg) (n : Nibble)
  /-- 6xnn -/
  | ldI (x : Reg) (nn : Byte)
  /-- 7xnn -/
  | addI (x : Reg) (nn : Byte)
  /-- 8xy0 -/
  | ldR (x y : Reg)
  /-- 8xy1 -/
  | or (x y : Reg)
  /-- 8xy2 -/
  | and (x y : Reg)
  /-- 8xy3 -/
  | xor (x y : Reg)
  /-- 8xy4 -/
  | addR (x y : Reg)
  /-- 8xy5 -/
  | sub (x y : Reg)
  /-- 8xy6, `y` ignored -/
  | shr (x y : Reg)
  /-- 8xy7 -/
  | subn (x y : Reg)
  /-- 8xyE, `y` ignored -/
  | shl (x y : Reg)
  /-- 9xyN, `n` ignored -/
  | sneR (x y : Reg) (n : Nibble)
  /-- Annn -/
  | ldIdx (nnn : Word)
  /-- Bnnn -/
  | jpV0 (nnn : Word)
  /-- Cxnn -/
  | rnd (x : Reg) (nn : Byte)
  /-- Dxyn -/
  | drw (x y : Reg) (n : Nat)
  /-- Ex9E -/
  | skp (x : Reg)
  /-- ExA1 -/
  | sknp (x : Reg)
  /-- Fx07 -/
  | ldVxDt (x : Reg)
  /-- Fx0A -/
  | ldVxK (x : Reg)
  /-- Fx15 -/
  | ldDtVx (x : Reg)
  /-- Fx18 -/
  | ldStVx (x : Reg)
  /-- Fx1E -/
  | addIdx (x : Reg)
  /-- Fx29 -/
  | ldF (x : Reg)
  /-- Fx33 -/
  | ldB (x : Reg)
  /-- Fx55 -/
  | stRegs (x : Reg)
  /-- Fx65 -/
  | ldRegs (x : Reg)
deriving DecidableEq, Repr

end Sys2Proof
end

