-- ==== Sys2Proof/WellFormed.lean ====
section
/-! DEFINITION. Which instructions an encoding can hold (spec/30_encoding.md R83). -/

namespace Sys2Proof

/-- A 16-bit address that the 12-bit field `NNN` can hold: 0 to 4095, "with zero high bits" (R83). -/
def fitsNNN (nnn : Word) : Bool := decide (nnn.toNat < 4096)

/-- A row count that the 4-bit field `N` of Dxyn can hold: 0 to 15 (R83). -/
def fitsRowCount (n : Nat) : Bool := decide (n < 16)

/-- An instruction is well formed when every operand fits its field. Register indexes, immediate bytes and the
ignored fields fit by their types ("being 4 bits wide they always name an existing register", R83). -/
def Instr.wellFormed : Instr → Bool
  | .jp nnn => fitsNNN nnn
  | .call nnn => fitsNNN nnn
  | .ldIdx nnn => fitsNNN nnn
  | .jpV0 nnn => fitsNNN nnn
  | .drw _ _ n => fitsRowCount n
  | .cls => true
  | .ret => true
  | .seI _ _ => true
  | .sneI _ _ => true
  | .seR _ _ _ => true
  | .ldI _ _ => true
  | .addI _ _ => true
  | .ldR _ _ => true
  | .or _ _ => true
  | .and _ _ => true
  | .xor _ _ => true
  | .addR _ _ => true
  | .sub _ _ => true
  | .shr _ _ => true
  | .subn _ _ => true
  | .shl _ _ => true
  | .sneR _ _ _ => true
  | .rnd _ _ => true
  | .skp _ => true
  | .sknp _ => true
  | .ldVxDt _ => true
  | .ldVxK _ => true
  | .ldDtVx _ => true
  | .ldStVx _ => true
  | .addIdx _ => true
  | .ldF _ => true
  | .ldB _ => true
  | .stRegs _ => true
  | .ldRegs _ => true

end Sys2Proof
end

