-- ==== Sys2Proof/Decode.lean ====
section
/-! DEFINITION. Decoding and encoding of instruction words (spec/30_encoding.md R80 to R87), and the opcode map of R85 as data. -/

namespace Sys2Proof

/-- The two bytes of an instruction as one word, the byte at the lower address first
(20_memory.md R52: "combine big-endian"). -/
def wordOfBytes (hi lo : Byte) : Word := hi ++ lo

/-- The byte of `w` that lies at the lower address. -/
def hiByte (w : Word) : Byte := w.extractLsb' 8 8

/-- The byte of `w` that lies at the higher address. -/
def loByte (w : Word) : Byte := w.extractLsb' 0 8

/-- `F`, bits 15:12, the family (R81). -/
def fieldF (op : Word) : Nibble := op.extractLsb' 12 4

/-- `X`, bits 11:8 (R81). -/
def fieldX (op : Word) : Reg := Fin.ofNat 16 (op.extractLsb' 8 4).toNat

/-- `Y`, bits 7:4 (R81). -/
def fieldY (op : Word) : Reg := Fin.ofNat 16 (op.extractLsb' 4 4).toNat

/-- `N`, bits 3:0 (R81). -/
def fieldN (op : Word) : Nibble := op.extractLsb' 0 4

/-- `NN`, bits 7:0 (R81). -/
def fieldNN (op : Word) : Byte := op.extractLsb' 0 8

/-- `NNN`, bits 11:0, "used as a 16-bit address with zero high bits" (R81, R83). -/
def fieldNNN (op : Word) : Word := (op.extractLsb' 0 12).setWidth 16

/-- Why a word is no instruction: the four families that hold unknown words (R86). -/
inductive Unknown where
  /-- every `0nnn` but 0x00E0 and 0x00EE -/
  | family0
  /-- `8xyN` with `N` in 8 to D, or F -/
  | family8
  /-- `ExNN` with `NN` other than 0x9E, 0xA1 -/
  | familyE
  /-- `FxNN` with `NN` none of the nine low bytes of family F -/
  | familyF
deriving DecidableEq, Repr

/-- Family 0 is decoded on the whole word (R85). -/
def decode0 (op : Word) : Except Unknown Instr :=
  match op with
  | 0x00E0#16 => .ok .cls
  | 0x00EE#16 => .ok .ret
  | _ => .error .family0

/-- Family 8 is decoded on its low nibble (R85). -/
def decode8 (n : Nibble) (x y : Reg) : Except Unknown Instr :=
  match n with
  | 0x0#4 => .ok (.ldR x y)
  | 0x1#4 => .ok (.or x y)
  | 0x2#4 => .ok (.and x y)
  | 0x3#4 => .ok (.xor x y)
  | 0x4#4 => .ok (.addR x y)
  | 0x5#4 => .ok (.sub x y)
  | 0x6#4 => .ok (.shr x y)
  | 0x7#4 => .ok (.subn x y)
  | 0xE#4 => .ok (.shl x y)
  | _ => .error .family8

/-- Family E is decoded on its low byte (R85). -/
def decodeE (nn : Byte) (x : Reg) : Except Unknown Instr :=
  match nn with
  | 0x9E#8 => .ok (.skp x)
  | 0xA1#8 => .ok (.sknp x)
  | _ => .error .familyE

/-- Family F is decoded on its low byte (R85). -/
def decodeF (nn : Byte) (x : Reg) : Except Unknown Instr :=
  match nn with
  | 0x07#8 => .ok (.ldVxDt x)
  | 0x0A#8 => .ok (.ldVxK x)
  | 0x15#8 => .ok (.ldDtVx x)
  | 0x18#8 => .ok (.ldStVx x)
  | 0x1E#8 => .ok (.addIdx x)
  | 0x29#8 => .ok (.ldF x)
  | 0x33#8 => .ok (.ldB x)
  | 0x55#8 => .ok (.stRegs x)
  | 0x65#8 => .ok (.ldRegs x)
  | _ => .error .familyF

/-- The decoder (R85; 40_cycle.md R103): a pure function of the word, total, an unknown word refused by the name of
its family. For families 5 and 9 the family alone selects (90_conflicts.md C7; notes/assumptions/12.md). The last arm is
family F: the fifteen others have arms of their own. -/
def decode (op : Word) : Except Unknown Instr :=
  match fieldF op with
  | 0x0#4 => decode0 op
  | 0x1#4 => .ok (.jp (fieldNNN op))
  | 0x2#4 => .ok (.call (fieldNNN op))
  | 0x3#4 => .ok (.seI (fieldX op) (fieldNN op))
  | 0x4#4 => .ok (.sneI (fieldX op) (fieldNN op))
  | 0x5#4 => .ok (.seR (fieldX op) (fieldY op) (fieldN op))
  | 0x6#4 => .ok (.ldI (fieldX op) (fieldNN op))
  | 0x7#4 => .ok (.addI (fieldX op) (fieldNN op))
  | 0x8#4 => decode8 (fieldN op) (fieldX op) (fieldY op)
  | 0x9#4 => .ok (.sneR (fieldX op) (fieldY op) (fieldN op))
  | 0xA#4 => .ok (.ldIdx (fieldNNN op))
  | 0xB#4 => .ok (.jpV0 (fieldNNN op))
  | 0xC#4 => .ok (.rnd (fieldX op) (fieldNN op))
  | 0xD#4 => .ok (.drw (fieldX op) (fieldY op) (fieldN op).toNat)
  | 0xE#4 => decodeE (fieldNN op) (fieldX op)
  | _ => decodeF (fieldNN op) (fieldX op)

/-- The decoder on the two bytes as they lie in memory (R80: "high byte first"). -/
def decodeBytes (hi lo : Byte) : Except Unknown Instr := decode (wordOfBytes hi lo)

/-- The instruction the decoder reads from the low 16 bits of `w` laid out in memory; an instruction is one word, so
bits above the sixteenth never reach it. -/
def decodeTableWord (nbits w : Nat) : Option Instr :=
  let op : Word := BitVec.ofNat 16 (w % 2 ^ nbits)
  match decodeBytes (hiByte op) (loByte op) with
  | .ok i => some i
  | .error _ => none

/-- A register index as a field of a word. -/
def regField (r : Reg) : Nibble := BitVec.ofNat 4 r.val

/-- Format A (R82): family and `NNN`. -/
def formatA (f : Nibble) (nnn : Word) : Word := f ++ nnn.setWidth 12

/-- Format XB (R82): family, `X`, `NN`. Also format XS, whose low byte is the sub-selector. -/
def formatXB (f : Nibble) (x : Reg) (nn : Byte) : Word := f ++ regField x ++ nn

/-- Format XY (R82): family, `X`, `Y`, sub-selector. Also format XYN, whose low nibble is the row count. -/
def formatXY (f : Nibble) (x y : Reg) (n : Nibble) : Word := f ++ regField x ++ regField y ++ n

/-- The encoder, from the patterns of R84 and the formats of R82. -/
def encode : Instr → Word
  | .cls => 0x00E0
  | .ret => 0x00EE
  | .jp nnn => formatA 0x1 nnn
  | .call nnn => formatA 0x2 nnn
  | .seI x nn => formatXB 0x3 x nn
  | .sneI x nn => formatXB 0x4 x nn
  | .seR x y n => formatXY 0x5 x y n
  | .ldI x nn => formatXB 0x6 x nn
  | .addI x nn => formatXB 0x7 x nn
  | .ldR x y => formatXY 0x8 x y 0x0
  | .or x y => formatXY 0x8 x y 0x1
  | .and x y => formatXY 0x8 x y 0x2
  | .xor x y => formatXY 0x8 x y 0x3
  | .addR x y => formatXY 0x8 x y 0x4
  | .sub x y => formatXY 0x8 x y 0x5
  | .shr x y => formatXY 0x8 x y 0x6
  | .subn x y => formatXY 0x8 x y 0x7
  | .shl x y => formatXY 0x8 x y 0xE
  | .sneR x y n => formatXY 0x9 x y n
  | .ldIdx nnn => formatA 0xA nnn
  | .jpV0 nnn => formatA 0xB nnn
  | .rnd x nn => formatXB 0xC x nn
  | .drw x y n => formatXY 0xD x y (BitVec.ofNat 4 n)
  | .skp x => formatXB 0xE x 0x9E
  | .sknp x => formatXB 0xE x 0xA1
  | .ldVxDt x => formatXB 0xF x 0x07
  | .ldVxK x => formatXB 0xF x 0x0A
  | .ldDtVx x => formatXB 0xF x 0x15
  | .ldStVx x => formatXB 0xF x 0x18
  | .addIdx x => formatXB 0xF x 0x1E
  | .ldF x => formatXB 0xF x 0x29
  | .ldB x => formatXB 0xF x 0x33
  | .stRegs x => formatXB 0xF x 0x55
  | .ldRegs x => formatXB 0xF x 0x65

/-- One row of the opcode map of R85: a word `op` selects it when `op AND mask = value`. -/
structure OpcodeRow where
  mask : Word
  value : Word
deriving DecidableEq, Repr

/-- `op` selects the row (R85). -/
def OpcodeRow.selects (r : OpcodeRow) (op : Word) : Bool := op &&& r.mask == r.value

/-- The row of an instruction in the opcode map of R85. -/
def rowOf : Instr → OpcodeRow
  | .cls => ⟨0xFFFF, 0x00E0⟩
  | .ret => ⟨0xFFFF, 0x00EE⟩
  | .jp _ => ⟨0xF000, 0x1000⟩
  | .call _ => ⟨0xF000, 0x2000⟩
  | .seI _ _ => ⟨0xF000, 0x3000⟩
  | .sneI _ _ => ⟨0xF000, 0x4000⟩
  | .seR _ _ _ => ⟨0xF000, 0x5000⟩
  | .ldI _ _ => ⟨0xF000, 0x6000⟩
  | .addI _ _ => ⟨0xF000, 0x7000⟩
  | .ldR _ _ => ⟨0xF00F, 0x8000⟩
  | .or _ _ => ⟨0xF00F, 0x8001⟩
  | .and _ _ => ⟨0xF00F, 0x8002⟩
  | .xor _ _ => ⟨0xF00F, 0x8003⟩
  | .addR _ _ => ⟨0xF00F, 0x8004⟩
  | .sub _ _ => ⟨0xF00F, 0x8005⟩
  | .shr _ _ => ⟨0xF00F, 0x8006⟩
  | .subn _ _ => ⟨0xF00F, 0x8007⟩
  | .shl _ _ => ⟨0xF00F, 0x800E⟩
  | .sneR _ _ _ => ⟨0xF000, 0x9000⟩
  | .ldIdx _ => ⟨0xF000, 0xA000⟩
  | .jpV0 _ => ⟨0xF000, 0xB000⟩
  | .rnd _ _ => ⟨0xF000, 0xC000⟩
  | .drw _ _ _ => ⟨0xF000, 0xD000⟩
  | .skp _ => ⟨0xF0FF, 0xE09E⟩
  | .sknp _ => ⟨0xF0FF, 0xE0A1⟩
  | .ldVxDt _ => ⟨0xF0FF, 0xF007⟩
  | .ldVxK _ => ⟨0xF0FF, 0xF00A⟩
  | .ldDtVx _ => ⟨0xF0FF, 0xF015⟩
  | .ldStVx _ => ⟨0xF0FF, 0xF018⟩
  | .addIdx _ => ⟨0xF0FF, 0xF01E⟩
  | .ldF _ => ⟨0xF0FF, 0xF029⟩
  | .ldB _ => ⟨0xF0FF, 0xF033⟩
  | .stRegs _ => ⟨0xF0FF, 0xF055⟩
  | .ldRegs _ => ⟨0xF0FF, 0xF065⟩

/-- Families 0 to 7 of the opcode map of R85. -/
def rowsLow : List OpcodeRow :=
  [rowOf .cls, rowOf .ret, rowOf (.jp 0), rowOf (.call 0),
   rowOf (.seI 0 0), rowOf (.sneI 0 0), rowOf (.seR 0 0 0), rowOf (.ldI 0 0),
   rowOf (.addI 0 0)]

/-- Families 8 to D of the opcode map of R85. -/
def rowsMid : List OpcodeRow :=
  [rowOf (.ldR 0 0), rowOf (.or 0 0), rowOf (.and 0 0), rowOf (.xor 0 0),
   rowOf (.addR 0 0), rowOf (.sub 0 0), rowOf (.shr 0 0), rowOf (.subn 0 0),
   rowOf (.shl 0 0), rowOf (.sneR 0 0 0), rowOf (.ldIdx 0), rowOf (.jpV0 0),
   rowOf (.rnd 0 0), rowOf (.drw 0 0 0)]

/-- Families E and F of the opcode map of R85. -/
def rowsHigh : List OpcodeRow :=
  [rowOf (.skp 0), rowOf (.sknp 0), rowOf (.ldVxDt 0), rowOf (.ldVxK 0),
   rowOf (.ldDtVx 0), rowOf (.ldStVx 0), rowOf (.addIdx 0), rowOf (.ldF 0),
   rowOf (.ldB 0), rowOf (.stRegs 0), rowOf (.ldRegs 0)]

/-- The opcode map of R85, 34 rows. -/
def opcodeRows : List OpcodeRow := rowsLow ++ rowsMid ++ rowsHigh

end Sys2Proof
end

