-- ==== Sys2Proof/Config.lean ====
section
/-! DEFINITION. The sizes of spec/00_scope.md R5, the font of spec/10_state.md R33, and the free random byte of R32. -/

namespace Sys2Proof.Config

/-- `MEM_SIZE`: addresses 0x000 to 0xFFF. -/
abbrev memSize : Nat := 4096

/-- `FONT_BASE`. -/
abbrev fontBase : Nat := 0x050

/-- `PROG_BASE`, the address where `load` puts the image. -/
abbrev progBase : Nat := 0x200

/-- `MAX_IMAGE`: 4096 minus 0x200. -/
abbrev maxImage : Nat := 3584

/-- `RESET_PC`. -/
abbrev resetPc : Word := 0x0200

/-- `STACK_DEPTH`, as the value of the depth counter `sp` when the stack is full. -/
abbrev stackDepth : Byte := 16

/-- The glyphs 0 to 7 of the font, five bytes each, top row first (10_state.md R33).
Only glyph 0 is backed by the source. PRESUMED, unsafe: glyphs 1 to 7 (notes/assumptions/2.md). -/
def fontLow : List Byte :=
  [0xF0, 0x90, 0x90, 0x90, 0xF0] ++ [0x20, 0x60, 0x20, 0x20, 0x70] ++
  [0xF0, 0x10, 0xF0, 0x80, 0xF0] ++ [0xF0, 0x10, 0xF0, 0x10, 0xF0] ++
  [0x90, 0x90, 0xF0, 0x10, 0x10] ++ [0xF0, 0x80, 0xF0, 0x10, 0xF0] ++
  [0xF0, 0x80, 0xF0, 0x90, 0xF0] ++ [0xF0, 0x10, 0x20, 0x40, 0x40]

/-- The glyphs 8 to F. PRESUMED, unsafe (notes/assumptions/2.md). -/
def fontHigh : List Byte :=
  [0xF0, 0x90, 0xF0, 0x90, 0xF0] ++ [0xF0, 0x90, 0xF0, 0x10, 0xF0] ++
  [0xF0, 0x90, 0xF0, 0x90, 0x90] ++ [0xE0, 0x90, 0xE0, 0x90, 0xE0] ++
  [0xF0, 0x80, 0x80, 0x80, 0xF0] ++ [0xE0, 0x90, 0x90, 0x90, 0xE0] ++
  [0xF0, 0x80, 0xF0, 0x80, 0xF0] ++ [0xF0, 0x80, 0xF0, 0x80, 0x80]

/-- `FONT`: the 80 constant bytes copied to 0x050 to 0x09F at reset (10_state.md R33). -/
def font : List Byte := fontLow ++ fontHigh

/-- The random byte a Cxnn consumes when the host has put no byte of its own on the port: a FREE VALUE, one for
each draw, about which nothing can be proved (10_state.md R32: "any value 0 to 255"; notes/assumptions/3.md). Safe. -/
opaque rndByte : Nat → Byte

end Sys2Proof.Config
end

