-- ==== Sys2Proof/Machine/State.lean ====
section
/-! DEFINITION. The state of the machine (spec/10_state.md R20 to R36), its value after reset, and the reasons a step can stop. -/

namespace Sys2Proof.Machine

/-- The bytes of memory that differ from what reset leaves, by strictly rising address. What an address that is not
listed reads as is `Memory.resetByte` (Ops.lean; notes/assumptions/4.md). -/
abbrev Memory := List Host.Cell

/-- The display: 32 rows of 64 cells, a cell on or off (10_state.md R30). -/
abbrev Display := Vector (Vector Bool 64) 32

/-- The keypad: one pressed state for each key 0x0 to 0xF (10_state.md R29). -/
abbrev Keypad := Vector Bool 16

/-- The two fatal causes (10_state.md R31). -/
inductive Cause where
  | stackOverflow
  | stackUnderflow
deriving DecidableEq, Repr

/-- The run status (10_state.md R31): the faulted one holds the cause, the address the faulting instruction was
fetched from, and its word. -/
inductive Status where
  | running
  | faulted (cause : Cause) (addr word : Word)
deriving DecidableEq, Repr

/-- One entry of the report log: where an unknown word was fetched, and the word (10_state.md R34). -/
structure Report where
  addr : Word
  word : Word
deriving DecidableEq, Repr

/-- The state (10_state.md R20), in the spec's names. The last two fields are the model's own: they carry the host's
random input of R32 as plain data (notes/assumptions/3.md). -/
structure State where
  /-- 4096 bytes, R35. -/
  mem : Memory
  /-- The general registers `x[0]` to `x[15]`, R21. -/
  x : Vector Byte 16
  /-- The index register, R24. -/
  I : Word
  /-- The program counter, R23. -/
  pc : Word
  /-- The sixteen return addresses, R25. -/
  stack : Vector Word 16
  /-- The stack depth, legal values 0 to 16, R26. -/
  sp : Byte
  /-- The delay timer, R27. -/
  dt : Byte
  /-- The sound timer, R28. -/
  st : Byte
  /-- The keypad as the host last wrote it, R29. -/
  key : Keypad
  /-- The display buffer, R30. -/
  disp : Display
  /-- The run status, R31. -/
  status : Status
  /-- The report log, oldest first, R34. -/
  reports : List Report
  /-- Random bytes the host has supplied and no Cxnn has consumed, next to be consumed first, R32. -/
  rndIn : List Byte
  /-- How many random bytes Cxnn has consumed. -/
  rndDrawn : Nat
deriving DecidableEq, Repr

/-- The reasons the machine stops outside the spec's own fault entry, which is a next state (R224, `State.raise`). -/
inductive Fault where
  /-- Raised by CALL and RET when `sp` is above 16, a value 10_state.md R26 calls neither legal nor reachable and for
  which no stack entry exists. Safe: no run from reset has such an `sp` (notes/assumptions/7.md). -/
  | illegalStackPointer
deriving DecidableEq, Repr

/-- The reasons the model gives no meaning. -/
inductive Refusal where
  /-- An instruction whose arm of `exec` has no meaning yet, by its mnemonic. Safe. No arm answers it. -/
  | notModelled (mnemonic : String)
deriving DecidableEq, Repr

/-- Every cell off. -/
def Display.blank : Display := Vector.replicate 32 (Vector.replicate 64 false)

/-- The machine right after reset (10_state.md R36; 70_reset_and_hazards.md R260, R261). Memory lists nothing: every
byte reads as reset leaves it. Reset values other than memory, `pc` and `status` are the spec's decision D5.
UNVERIFIED, unsafe (notes/assumptions/1.md). `rndIn` and `rndDrawn`: DESIGN CHOICE (notes/assumptions/3.md). -/
def State.reset : State where
  mem := []
  x := Vector.replicate 16 0
  I := 0
  pc := Config.resetPc
  stack := Vector.replicate 16 0
  sp := 0
  dt := 0
  st := 0
  key := Vector.replicate 16 false
  disp := Display.blank
  status := .running
  reports := []
  rndIn := []
  rndDrawn := 0

end Sys2Proof.Machine
end

