-- ==== Sys2Proof/Machine/Ops.lean ====
section
/-! DEFINITION. The named operations over memory, registers, stack, timers and display, fault entry, and the phases of a
step other than execute (spec/00_scope.md R9, R10; 40_cycle.md R100 to R107). -/

namespace Sys2Proof.Machine

/-! ### Memory (00_scope.md R9; 20_memory.md) -/

/-- The address of the byte an access reaches: reduced modulo 4096 at the access (20_memory.md R55, the spec's decision
D1). UNVERIFIED, unsafe (notes/assumptions/5.md). -/
def wrapAddr (a : Nat) : Nat := a % Config.memSize

/-- The byte reset leaves at an address: the font at 0x050 to 0x09F, zero elsewhere (10_state.md R36). -/
def Memory.resetByte (a : Nat) : Byte :=
  if a < Config.fontBase then 0 else Config.font.getD (a - Config.fontBase) 0

/-- The byte listed for address `a`, or what reset left there. -/
def Memory.lookup : Memory → Nat → Byte
  | [], a => Memory.resetByte a
  | (k, v) :: m, a => if k = a then v else Memory.lookup m a

/-- Forget what is listed for address `a`. -/
def Memory.erase : Memory → Nat → Memory
  | [], _ => []
  | (k, v) :: m, a => if k = a then Memory.erase m a else (k, v) :: Memory.erase m a

/-- List `v` for address `a`, at its place. -/
def Memory.insert : Memory → Nat → Byte → Memory
  | [], a, v => [(a, v)]
  | (k, w) :: m, a, v => if a < k then (a, v) :: (k, w) :: m else (k, w) :: Memory.insert m a v

/-- Give address `a` the byte `v`, listing it only where it differs from what reset left. -/
def Memory.put (m : Memory) (a : Nat) (v : Byte) : Memory :=
  if v = Memory.resetByte a then m.erase a else (m.erase a).insert a v

/-- `MemRead(addr, 1)` (00_scope.md R9). It cannot fault. -/
def Memory.read (m : Memory) (a : Nat) : Byte := m.lookup (wrapAddr a)

/-- `MemRead(addr, 2)`, "first byte most significant" (00_scope.md R9). -/
def Memory.readWord (m : Memory) (a : Nat) : Word := wordOfBytes (m.read a) (m.read (a + 1))

/-- `MemWrite(addr, 1, v)` (00_scope.md R9). It cannot fault. -/
def Memory.write (m : Memory) (a : Nat) (v : Byte) : Memory := m.put (wrapAddr a) v

/-- Write a run of bytes, lowest address first (20_memory.md R63). -/
def Memory.writeBytes (m : Memory) (a : Nat) : List Byte → Memory
  | [] => m
  | v :: vs => Memory.writeBytes (m.write a v) (a + 1) vs

/-- The addresses listed rise strictly and start at `lo` or above. -/
def Memory.rising (lo : Nat) : Memory → Bool
  | [] => true
  | (k, _) :: m => decide (lo ≤ k) && Memory.rising (k + 1) m

/-- The canonical form: addresses strictly rising and inside the 4096, and no entry that says what reset left. -/
def Memory.wf (m : Memory) : Bool :=
  Memory.rising 0 m && m.all fun c => decide (c.1 < Config.memSize) && c.2 != Memory.resetByte c.1

/-! ### Registers (00_scope.md R8) -/

/-- `x[r]`. -/
def State.reg (s : State) (r : Reg) : Byte := s.x.get r

/-- `x[r] <- v`. -/
def State.setReg (s : State) (r : Reg) (v : Byte) : State := { s with x := s.x.set r.val v }

/-- Replace the whole register file. -/
def State.setRegs (s : State) (x : Vector Byte 16) : State := { s with x := x }

/-- `x[15]`, the flag register VF (10_state.md R22). -/
abbrev vf : Reg := 15

/-- `I <- v`. -/
def State.setI (s : State) (v : Word) : State := { s with I := v }

/-- `pc <- t` (00_scope.md R10). -/
def State.setPc (s : State) (t : Word) : State := { s with pc := t }

/-- `skip` where `c` holds (00_scope.md R10): `pc <- (pc + 2) mod 65536`. -/
def State.skipIf (s : State) (c : Bool) : State := if c then s.setPc (s.pc + 2) else s

/-- `dt <- v`. -/
def State.setDt (s : State) (v : Byte) : State := { s with dt := v }

/-- `st <- v`. -/
def State.setSt (s : State) (v : Byte) : State := { s with st := v }

/-- Replace memory. -/
def State.setMem (s : State) (m : Memory) : State := { s with mem := m }

/-- Replace the display buffer. -/
def State.setDisp (s : State) (d : Display) : State := { s with disp := d }

/-- Replace the keypad: what the host does between steps (60_exceptions.md R240). -/
def State.setKey (s : State) (k : Keypad) : State := { s with key := k }

/-! ### The call stack (10_state.md R25, R26) -/

/-- `stack[sp] <- v; sp <- sp + 1`, for an `sp` that names an entry. -/
def State.push (s : State) (v : Word) (h : s.sp.toNat < 16) : State :=
  { s with stack := s.stack.set s.sp.toNat v h, sp := s.sp + 1 }

/-- The entry on top of the stack, `stack[sp - 1]`, for an `sp` that has one. -/
def State.top (s : State) (h : 0 < s.sp.toNat ∧ s.sp.toNat ≤ 16) : Word :=
  s.stack.get ⟨s.sp.toNat - 1, by omega⟩

/-- `sp <- sp - 1`; the popped entry keeps its value. -/
def State.drop (s : State) : State := { s with sp := s.sp - 1 }

/-! ### Fault entry (60_exceptions.md R224) and report (R226) -/

/-- `raise cause`: the status takes the cause, the address the word was fetched from (`pc` is already past it), and the
word; nothing else is written. The machine has no handler and no return from a fault (R225): only reset leaves it.
The entry is a next state, not a fault of the model (notes/assumptions/6.md). -/
def State.raise (s : State) (cause : Cause) (op : Word) : State :=
  { s with status := .faulted cause (s.pc - 2) op }

/-- `report(a, op)`: append to the report log (00_scope.md R10; 10_state.md R34). -/
def State.report (s : State) (a op : Word) : State :=
  { s with reports := s.reports ++ [⟨a, op⟩] }

/-! ### The random input (10_state.md R32) -/

/-- The byte the next Cxnn consumes: the first the host has supplied, else a free value (notes/assumptions/3.md). -/
def State.rndNext (s : State) : Byte :=
  match s.rndIn with
  | r :: _ => r
  | [] => Config.rndByte s.rndDrawn

/-- One byte of the random input is consumed. -/
def State.afterDraw (s : State) : State :=
  { s with rndIn := s.rndIn.tail, rndDrawn := s.rndDrawn + 1 }

/-! ### The phases of a step other than execute (40_cycle.md R100) -/

/-- The word at `pc`: `mem[pc mod 4096] ++ mem[(pc + 1) mod 4096]` (R101). R112 says of a run with no load that every step reads
0x0000; by this wrap the font is read once `pc` is 0x1050, and the model follows the wrap. DEDUCED, unsafe
(notes/assumptions/26.md). -/
def State.fetchWord (s : State) : Word := s.mem.readWord s.pc.toNat

/-- `pc <- (a + 2) mod 65536`, right after the fetch (R102). -/
def State.advance (s : State) : State := s.setPc (s.pc + 2)

/-- A timer above 0 goes down by 1, a timer at 0 stays (R105). -/
def decayTimer (t : Byte) : Byte := if t = 0 then 0 else t - 1

/-- The timer decay of a completed step (R105). -/
def State.decay (s : State) : State := { s with dt := decayTimer s.dt, st := decayTimer s.st }

/-- The end of a step: the timers decay unless the execute phase raised a fault (R105). -/
def State.endStep (s : State) : State :=
  match s.status with
  | .running => s.decay
  | .faulted _ _ _ => s

/-- Lay the instruction word `op` at the address the next fetch reads (20_memory.md R52: high byte first). -/
def State.placeWord (s : State) (op : Word) : State :=
  s.setMem (s.mem.writeBytes s.pc.toNat [hiByte op, loByte op])

/-! ### The display (10_state.md R30; 43_display.md R171 to R173) -/

/-- `disp[r][c]`. -/
def Display.cell (d : Display) (r : Fin 32) (c : Fin 64) : Bool := (d.get r).get c

/-- `disp[r][c] <- not disp[r][c]`. -/
def Display.toggle (d : Display) (r : Fin 32) (c : Fin 64) : Display :=
  d.set r.val ((d.get r).set c.val (!d.cell r c))

/-- What the drawing loop carries: the display so far, and whether a cell has gone from on to off. -/
structure Canvas where
  disp : Display
  hit : Bool
deriving DecidableEq, Repr

/-- One pixel of a sprite at column `cx`, row `cy` (43_display.md R171): a clear bit touches nothing, a pixel outside
the frame is dropped (the spec's decision D4, notes/assumptions/10.md), a cell turned off is a collision (R173). -/
def Canvas.pixel (k : Canvas) (cx cy : Nat) (bit : Bool) : Canvas :=
  if bit then
    if h : cx ≤ 63 ∧ cy ≤ 31 then
      let r : Fin 32 := ⟨cy, by omega⟩
      let c : Fin 64 := ⟨cx, by omega⟩
      ⟨k.disp.toggle r c, k.hit || k.disp.cell r c⟩
    else k
  else k

/-- Bit `7 - c` of a sprite byte, the pixel `c` columns from the left (R172, the spec's decision D10). -/
def spriteBit (b : Byte) (c : Nat) : Bool := b.getLsbD (7 - c)

/-- One row of a sprite: its eight pixels, left to right. -/
def Canvas.row (k : Canvas) (px cy : Nat) (b : Byte) : Canvas :=
  (List.range 8).foldl (fun k c => k.pixel (px + c) cy (spriteBit b c)) k

/-- The `n` rows of a sprite, one byte of memory a row from address `a` up, the first at row `py`. -/
def Canvas.sprite (k : Canvas) (m : Memory) (a px py n : Nat) : Canvas :=
  (List.range n).foldl (fun k r => k.row px (py + r) (m.read (a + r))) k

end Sys2Proof.Machine
end

