-- ==== Sys2Proof/Machine/Alu.lean ====
section
/-! DEFINITION. Register loads and the ALU: spec/42_alu.md R140 to R154. Operands are read before any write; where the result and the
flag hit the same register, the write that the row's text names last stays (R154, the spec's decision D8; notes/assumptions/13.md). -/

namespace Sys2Proof.Machine

/-- Write the flag, then the result (R154: 8xy5, 8xy6, 8xy7, 8xyE): with `r = 15` the result stays. -/
def State.flagThenResult (s : State) (r : Reg) (flag result : Byte) : State :=
  (s.setReg vf flag).setReg r result

/-- Write the result, then the flag (R154: 8xy4): with `r = 15` the flag stays. -/
def State.resultThenFlag (s : State) (r : Reg) (result flag : Byte) : State :=
  (s.setReg r result).setReg vf flag

/-- 6xnn (R140). -/
def execLdI (x : Reg) (nn : Byte) (s : State) : Host.Outcome State Fault Refusal :=
  .next (s.setReg x nn)

/-- 7xnn, no flag (R141). -/
def execAddI (x : Reg) (nn : Byte) (s : State) : Host.Outcome State Fault Refusal :=
  .next (s.setReg x (s.reg x + nn))

/-- 8xy0 (R142). -/
def execLdR (x y : Reg) (s : State) : Host.Outcome State Fault Refusal :=
  .next (s.setReg x (s.reg y))

/-- 8xy1 (R143). -/
def execOr (x y : Reg) (s : State) : Host.Outcome State Fault Refusal :=
  .next (s.setReg x (s.reg x ||| s.reg y))

/-- 8xy2 (R144). -/
def execAnd (x y : Reg) (s : State) : Host.Outcome State Fault Refusal :=
  .next (s.setReg x (s.reg x &&& s.reg y))

/-- 8xy3 (R145). -/
def execXor (x y : Reg) (s : State) : Host.Outcome State Fault Refusal :=
  .next (s.setReg x (s.reg x ^^^ s.reg y))

/-- 8xy4 (R146). -/
def execAddR (x y : Reg) (s : State) : Host.Outcome State Fault Refusal :=
  .next (s.resultThenFlag x (s.reg x + s.reg y) (carryFlag (s.reg x) (s.reg y)))

/-- 8xy5 (R147). -/
def execSub (x y : Reg) (s : State) : Host.Outcome State Fault Refusal :=
  .next (s.flagThenResult x (greaterFlag (s.reg x) (s.reg y)) (s.reg x - s.reg y))

/-- 8xy6, `y` ignored (R148). -/
def execShr (x _y : Reg) (s : State) : Host.Outcome State Fault Refusal :=
  .next (s.flagThenResult x (shiftOutLow (s.reg x)) (s.reg x >>> 1))

/-- 8xy7 (R149). -/
def execSubn (x y : Reg) (s : State) : Host.Outcome State Fault Refusal :=
  .next (s.flagThenResult x (greaterFlag (s.reg y) (s.reg x)) (s.reg y - s.reg x))

/-- 8xyE, `y` ignored (R150). -/
def execShl (x _y : Reg) (s : State) : Host.Outcome State Fault Refusal :=
  .next (s.flagThenResult x (shiftOutHigh (s.reg x)) (s.reg x <<< 1))

/-- Cxnn (R151): one byte of the random input is consumed, whatever `nn` is. -/
def execRnd (x : Reg) (nn : Byte) (s : State) : Host.Outcome State Fault Refusal :=
  .next (s.afterDraw.setReg x (s.rndNext &&& nn))

end Sys2Proof.Machine
end

