-- ==== Sys2Proof/Machine/Operands.lean ====
section
/-! DEFINITION. The operand forms: effective addresses, key selection, register blocks, digits, glyphs, sprite positions. -/

namespace Sys2Proof.Machine

/-- The one addressing mode (45_index_memory.md R206): the `k`-th byte of an access lies at `I + k`; the memory primitives
reduce it modulo 4096. -/
def State.effAddr (s : State) (k : Nat) : Nat := s.I.toNat + k

/-- The key an 8-bit register value names: `v mod 16` (44_keypad_timers.md R191, the spec's decision D9).
UNVERIFIED, unsafe (notes/assumptions/14.md). -/
def keyOf (v : Byte) : Fin 16 := Fin.ofNat 16 v.toNat

/-- The key `x[r]` names is pressed (44_keypad_timers.md R185). -/
def State.keyDown (s : State) (r : Reg) : Bool := s.key.get (keyOf (s.reg r))

/-- The least `k` with `key[k]`, if any key is pressed (44_keypad_timers.md R187). -/
def lowestKey (key : Keypad) : Option (Fin 16) := (List.finRange 16).find? fun k => key.get k

/-- The three decimal digits of a byte, hundreds first (45_index_memory.md R203). -/
def digits (v : Byte) : List Byte := [v / 100, v / 10 % 10, v % 10]

/-- `x[0]` to `x[r]`, lowest first (45_index_memory.md R204). -/
def State.regBlock (s : State) (r : Reg) : List Byte := s.x.toList.take (r.val + 1)

/-- The register file with `x[0]` to `x[r]` replaced by the bytes of memory from `I` up (45_index_memory.md R205). -/
def State.loadedRegs (s : State) (r : Reg) : Vector Byte 16 :=
  Vector.ofFn fun k => if k ≤ r then s.mem.read (s.effAddr k.val) else s.reg k

/-- The address of the glyph a register value selects: `0x050 + 5 * v`, no mask (45_index_memory.md R202). -/
def glyphAddr (v : Byte) : Word := BitVec.ofNat 16 Config.fontBase + 5 * v.setWidth 16

/-- A register value added to an address or to `I`, modulo 65536 (41_flow.md R123; 45_index_memory.md R201). -/
def addByte (a : Word) (v : Byte) : Word := a + v.setWidth 16

/-- The start column of a sprite: `v mod 64` (43_display.md R171, R172). -/
def spriteColumn (v : Byte) : Nat := v.toNat % 64

/-- The start row of a sprite: `v mod 32` (43_display.md R171, R172). -/
def spriteRow (v : Byte) : Nat := v.toNat % 32

end Sys2Proof.Machine
end

