-- ==== Sys2Proof/Machine/Flow.lean ====
section
/-! DEFINITION. Control transfer: spec/41_flow.md R120 to R129. On entry `pc` is already past the instruction (00_scope.md R12). -/

namespace Sys2Proof.Machine

/-- 00EE (R120). Underflow at `sp = 0` (60_exceptions.md R222). An `sp` above 16 has no entry to pop and stops by name. -/
def execRet (s : State) : Host.Outcome State Fault Refusal :=
  if s.sp = 0 then .next (s.raise .stackUnderflow (encode .ret))
  else if h : 0 < s.sp.toNat ∧ s.sp.toNat ≤ 16 then .next (s.drop.setPc (s.top h))
  else .fault .illegalStackPointer

/-- 1nnn (R121). -/
def execJp (nnn : Word) (s : State) : Host.Outcome State Fault Refusal := .next (s.setPc nnn)

/-- 2nnn (R122). Overflow at `sp = 16` (60_exceptions.md R221). An `sp` above 16 names no entry and stops by name. -/
def execCall (nnn : Word) (s : State) : Host.Outcome State Fault Refusal :=
  if s.sp = Config.stackDepth then .next (s.raise .stackOverflow (encode (.call nnn)))
  else if h : s.sp.toNat < 16 then .next ((s.push s.pc h).setPc nnn)
  else .fault .illegalStackPointer

/-- Bnnn (R123). -/
def execJpV0 (nnn : Word) (s : State) : Host.Outcome State Fault Refusal :=
  .next (s.setPc (addByte nnn (s.reg 0)))

/-- 3xnn (R124). -/
def execSeI (x : Reg) (nn : Byte) (s : State) : Host.Outcome State Fault Refusal :=
  .next (s.skipIf (s.reg x == nn))

/-- 4xnn (R125). -/
def execSneI (x : Reg) (nn : Byte) (s : State) : Host.Outcome State Fault Refusal :=
  .next (s.skipIf (s.reg x != nn))

/-- 5xyN, the low nibble ignored (R126). -/
def execSeR (x y : Reg) (_n : Nibble) (s : State) : Host.Outcome State Fault Refusal :=
  .next (s.skipIf (s.reg x == s.reg y))

/-- 9xyN, the low nibble ignored (R127). -/
def execSneR (x y : Reg) (_n : Nibble) (s : State) : Host.Outcome State Fault Refusal :=
  .next (s.skipIf (s.reg x != s.reg y))

end Sys2Proof.Machine
end

