-- ==== Sys2Proof/Machine/IndexMemory.lean ====
section
/-! DEFINITION. Index register and memory instructions: spec/45_index_memory.md R200 to R206. None of them but the three that set `I`
changes `I` (R206). -/

namespace Sys2Proof.Machine

/-- Annn (R200). -/
def execLdIdx (nnn : Word) (s : State) : Host.Outcome State Fault Refusal := .next (s.setI nnn)

/-- Fx1E, no flag (R201). -/
def execAddIdx (x : Reg) (s : State) : Host.Outcome State Fault Refusal :=
  .next (s.setI (addByte s.I (s.reg x)))

/-- Fx29, memory is not read (R202). -/
def execLdF (x : Reg) (s : State) : Host.Outcome State Fault Refusal :=
  .next (s.setI (glyphAddr (s.reg x)))

/-- Fx33 (R203). -/
def execLdB (x : Reg) (s : State) : Host.Outcome State Fault Refusal :=
  .next (s.setMem (s.mem.writeBytes (s.effAddr 0) (digits (s.reg x))))

/-- Fx55 (R204). -/
def execStRegs (x : Reg) (s : State) : Host.Outcome State Fault Refusal :=
  .next (s.setMem (s.mem.writeBytes (s.effAddr 0) (s.regBlock x)))

/-- Fx65 (R205). -/
def execLdRegs (x : Reg) (s : State) : Host.Outcome State Fault Refusal :=
  .next (s.setRegs (s.loadedRegs x))

end Sys2Proof.Machine
end

