-- ==== Sys2Proof/Machine/Screen.lean ====
section
/-! DEFINITION. Display instructions: spec/43_display.md R170 to R173. -/

namespace Sys2Proof.Machine

/-- 00E0 (R170). -/
def execCls (s : State) : Host.Outcome State Fault Refusal := .next (s.setDisp Display.blank)

/-- What Dxyn draws on: the sprite of `n` bytes from `I` up, its first pixel at `(x[x] mod 64, x[y] mod 32)`, the
registers read before `x[15]` is written (R171). -/
def State.drawn (s : State) (x y : Reg) (n : Nat) : Canvas :=
  Canvas.sprite ⟨s.disp, false⟩ s.mem (s.effAddr 0) (spriteColumn (s.reg x)) (spriteRow (s.reg y)) n

/-- Dxyn (R171): `x[15]` is always written, also with `n = 0`. -/
def execDrw (x y : Reg) (n : Nat) (s : State) : Host.Outcome State Fault Refusal :=
  .next ((s.setDisp (s.drawn x y n).disp).setReg vf (collisionFlag (s.drawn x y n).hit))

end Sys2Proof.Machine
end

