-- ==== Sys2Proof/Machine/Cycle.lean ====
section
/-! DEFINITION. The phases of a step put together (spec/40_cycle.md R100 to R107). -/

namespace Sys2Proof.Machine

/-- What follows the execute phase (R105): a next state ends the step, a stop is passed on. -/
def finish (o : Host.Outcome State Fault Refusal) : Host.Outcome State Fault Refusal :=
  match o with
  | .next t => .next t.endStep
  | .fault r => .fault r
  | .refused r => .refused r

/-- The whole step of an unknown word (R106): advance, report the fetch address and the word, decay. -/
def State.reportUnknown (s : State) : State := (s.advance.report s.pc s.fetchWord).endStep

/-- A step of a running machine (R100): the word at `pc` is executed, or reported when it is no instruction. -/
def stepRunning (s : State) : Host.Outcome State Fault Refusal :=
  match decode s.fetchWord with
  | .ok i => finish (exec i s.advance)
  | .error _ => .next s.reportUnknown

/-- A step of a faulted machine changes nothing (R107; notes/assumptions/8.md). -/
def stepFaulted (s : State) : Host.Outcome State Fault Refusal := .next s

end Sys2Proof.Machine
end

