-- ==== Sys2Proof/Machine/Step.lean ====
section
/-! DEFINITION. One step of the machine (spec/40_cycle.md R100). -/

namespace Sys2Proof.Machine

/-- `step` (R100, R107). -/
def step (s : State) : Host.Outcome State Fault Refusal :=
  match s.status with
  | .running => stepRunning s
  | .faulted _ _ _ => stepFaulted s

/-- `s` with the instruction whose bits are `w` stored where the next fetch reads it, and running, so that the next
step runs it. It stands for a `load` from outside the machine (notes/assumptions/17.md). -/
def State.withFetchWord (s : State) (nbits w : Nat) : State :=
  State.placeWord { s with status := .running } (BitVec.ofNat 16 (w % 2 ^ nbits))

end Sys2Proof.Machine
end

