-- ==== Sys2Proof/Machine/HostPort.lean ====
section
/-! DEFINITION. What the host can do to the machine and see of it (spec/40_cycle.md R110 to R113; spec/60_exceptions.md R220, R227, R240 to
R245). The spec's ports are its own names for the content (notes/assumptions/23.md). -/

namespace Sys2Proof.Machine

/-! ### Inputs -/

/-- The keypad port `key_in[15:0]`, bit `k` for key `k`, latched into `key` between steps (R240). -/
def State.writeKeyPort (s : State) (keyIn : BitVec 16) : State :=
  s.setKey (Vector.ofFn fun k => keyIn.getLsbD k.val)

/-- The random port: the host supplies bytes for the Cxnn that come (R243). -/
def State.supplyRandom (s : State) (bytes : List Byte) : State := { s with rndIn := s.rndIn ++ bytes }

/-- The image is copied to 0x200 verbatim and nothing else changes (40_cycle.md R110). -/
def State.copyImage (s : State) (image : List Byte) : State :=
  s.setMem (s.mem.writeBytes Config.progBase image)

/-! ### The calling contract of `load` (40_cycle.md R112), held around the state because R20 gives the state no such
element (notes/assumptions/16.md) -/

/-- How far the host has come since reset. -/
inductive Phase where
  /-- no successful load, no step -/
  | fresh
  /-- one successful load, no step -/
  | loaded
  /-- at least one step -/
  | stepped
deriving DecidableEq, Repr

/-- What `load` answers: done; `LoadError`, the image is too long (R111); or refused, the call is outside the contract
(R112: "a second successful load, or a load after any step"). -/
inductive LoadResult where
  | done
  | loadError
  | refused
deriving DecidableEq, Repr

/-- A machine together with what the host has called so far. -/
structure Session where
  core : State
  phase : Phase
deriving DecidableEq, Repr

/-- Reset: the construction of the machine, once, before anything else (R260). -/
def Session.start : Session := ⟨State.reset, .fresh⟩

/-- `load(image)` (40_cycle.md R110 to R112). -/
def Session.load (h : Session) (image : List Byte) : LoadResult × Session :=
  match h.phase with
  | .fresh =>
    if image.length ≤ Config.maxImage then (.done, ⟨h.core.copyImage image, .loaded⟩) else (.loadError, h)
  | .loaded => (.refused, h)
  | .stepped => (.refused, h)

/-- The host writes the keypad; allowed at any time between steps (R245). -/
def Session.writeKeyPort (h : Session) (keyIn : BitVec 16) : Session :=
  { h with core := h.core.writeKeyPort keyIn }

/-- The host puts random bytes on the port (R243). -/
def Session.supplyRandom (h : Session) (bytes : List Byte) : Session :=
  { h with core := h.core.supplyRandom bytes }

/-- The host calls `step` (R100). -/
def Session.step (h : Session) : Host.Outcome Session Fault Refusal :=
  match Sys2Proof.Machine.step h.core with
  | .next t => .next ⟨t, .stepped⟩
  | .fault r => .fault r
  | .refused r => .refused r

/-- One round of a run (40_cycle.md R113): an optional host write of the keypad, then one step. -/
def State.round (s : State) (keyIn : Option (BitVec 16)) : Host.Outcome State Fault Refusal :=
  match keyIn with
  | some k => Sys2Proof.Machine.step (s.writeKeyPort k)
  | none => Sys2Proof.Machine.step s

/-- The rounds of a run, one for each entry of the key schedule (R113, R263), up to the first stop. -/
def State.rounds (s : State) : List (Option (BitVec 16)) → Host.Outcome State Fault Refusal
  | [] => .next s
  | k :: ks =>
    match s.round k with
    | .next t => State.rounds t ks
    | .fault r => .fault r
    | .refused r => .refused r

/-- `n` steps with no host action between them. -/
def State.steps (s : State) : Nat → Host.Outcome State Fault Refusal
  | 0 => .next s
  | n + 1 =>
    match Sys2Proof.Machine.step s with
    | .next t => State.steps t n
    | .fault r => .fault r
    | .refused r => .refused r

/-! ### Outputs, read between steps -/

/-- The 2048 cells in the row-major linear order, cell `64 * r + c` (R241; 10_state.md R30). -/
def State.displayOut (s : State) : List Bool := s.disp.toList.flatMap fun row => row.toList

/-- The sound gate: `st` above 0, "should be sounding" (R242). -/
def State.soundOn (s : State) : Bool := s.st != 0

/-- The status code: 0 running, 1 overflow, 2 underflow (R220, R223). -/
def State.statusCode (s : State) : Nat :=
  match s.status with
  | .running => 0
  | .faulted .stackOverflow _ _ => 1
  | .faulted .stackUnderflow _ _ => 2

/-- The code of a report (R220). -/
def unknownOpcodeCode : Nat := 3

/-- The code of a failed load (R220); it never enters `status` (R227). -/
def loadErrorCode : Nat := 4

end Sys2Proof.Machine
end

