-- ==== Sys2Proof/Safety.lean ====
section
/-! DEFINITION. The terms claims are stated in: the invariant, the launch premises of spec/70_reset_and_hazards.md R263, and what an instruction may
write (spec/10_state.md R38). -/

namespace Sys2Proof.Machine

/-- The invariant: `0 <= sp <= 16` (10_state.md R37), and memory in its canonical form inside the 4096 bytes, which is the model's
own choice of how to hold them (DEDUCED, notes/assumptions/4.md). The other bounds of R37 hold by the types. -/
def State.Inv (s : State) : Prop := s.mem.wf = true ∧ s.sp.toNat ≤ 16

/-- `FreshReset` (R263): the state right after reset. -/
def FreshReset (s : State) : Prop := s = State.reset

/-- `LoadedOnce(image)` (R263): reset, then one successful load of the image. -/
def LoadedOnce (image : List Byte) (s : State) : Prop :=
  image.length ≤ Config.maxImage ∧ s = State.reset.copyImage image

/-- The machine has not faulted. -/
def State.Running (s : State) : Prop := s.status = .running

/-- The pixel of the sprite of `Dxyn` that lands on row `r`, column `c`, if any (43_display.md R171, R172), said without the
drawing loop: the sprite's byte `r - py` at `I + (r - py)`, its bit `7 - (c - px)`. -/
def State.spritePixel (s : State) (x y : Reg) (n : Nat) (r : Fin 32) (c : Fin 64) : Bool :=
  let px := (s.reg x).toNat % 64
  let py := (s.reg y).toNat % 32
  decide (py ≤ r.val ∧ r.val < py + n ∧ px ≤ c.val ∧ c.val < px + 8) &&
    (s.mem.read (s.I.toNat + (r.val - py))).getLsbD (7 - (c.val - px))

/-- The elements of the state (10_state.md R20), `sp` with `stack`, and the random input of R32. -/
inductive Element where
  | memory | registers | index | programCounter | stack | delayTimer | soundTimer | keypad | display | status
  | reports | random
deriving DecidableEq, Repr

/-- Two states agree on an element. -/
def SameOn (s t : State) : Element → Prop
  | .memory => t.mem = s.mem
  | .registers => t.x = s.x
  | .index => t.I = s.I
  | .programCounter => t.pc = s.pc
  | .stack => t.stack = s.stack ∧ t.sp = s.sp
  | .delayTimer => t.dt = s.dt
  | .soundTimer => t.st = s.st
  | .keypad => t.key = s.key
  | .display => t.disp = s.disp
  | .status => t.status = s.status
  | .reports => t.reports = s.reports
  | .random => t.rndIn = s.rndIn ∧ t.rndDrawn = s.rndDrawn

/-- What the execute phase of each instruction may write, the "written by" column of 10_state.md R38 read by instruction
(the advance of `pc` and the timer decay belong to the step, not to the instruction; the random source is drawn from by
Cxnn alone, R32). -/
def writes : Instr → List Element
  | .cls => [.display]
  | .ret => [.stack, .programCounter, .status]
  | .jp _ => [.programCounter]
  | .call _ => [.stack, .programCounter, .status]
  | .seI _ _ => [.programCounter]
  | .sneI _ _ => [.programCounter]
  | .seR _ _ _ => [.programCounter]
  | .ldI _ _ => [.registers]
  | .addI _ _ => [.registers]
  | .ldR _ _ => [.registers]
  | .or _ _ => [.registers]
  | .and _ _ => [.registers]
  | .xor _ _ => [.registers]
  | .addR _ _ => [.registers]
  | .sub _ _ => [.registers]
  | .shr _ _ => [.registers]
  | .subn _ _ => [.registers]
  | .shl _ _ => [.registers]
  | .sneR _ _ _ => [.programCounter]
  | .ldIdx _ => [.index]
  | .jpV0 _ => [.programCounter]
  | .rnd _ _ => [.registers, .random]
  | .drw _ _ _ => [.registers, .display]
  | .skp _ => [.programCounter]
  | .sknp _ => [.programCounter]
  | .ldVxDt _ => [.registers]
  | .ldVxK _ => [.registers, .programCounter]
  | .ldDtVx _ => [.delayTimer]
  | .ldStVx _ => [.soundTimer]
  | .addIdx _ => [.index]
  | .ldF _ => [.index]
  | .ldB _ => [.memory]
  | .stRegs _ => [.memory]
  | .ldRegs _ => [.registers]

end Sys2Proof.Machine
end

