-- ==== Sys2Proof/Certificates/Slice0/Obligations.lean ====
section
/-! DEFINITION. The statements about the machine, from the numbered rules of spec/. A frame is written `t = { s with … }`: every field not named
there is unchanged. A decision `D<n>` is the spec's own choice where its source is silent (spec/92_eei_decisions.md). -/

open Sys2Proof Sys2Proof.Machine

/-! ### Reset and the invariant -/

/-- 10_state.md R36, the whole table. The values of registers, `I`, `sp`, `stack`, timers, keypad and display are the spec's
decision D5, the font bytes of glyphs 1 to F general knowledge (log entries 1 and 2); memory, `pc` and glyph 0 are the source's. -/
def Obligations.ResetLeavesTheTableOfValues : Prop :=
  State.reset.pc.toNat = 0x200 ∧ State.reset.status = .running ∧ State.reset.reports = [] ∧
  (∀ a, a < 0x50 ∨ (0xA0 ≤ a ∧ a < 4096) → State.reset.mem.read a = 0) ∧
  (∀ k (h : k < Config.font.length), State.reset.mem.read (0x50 + k) = Config.font[k]) ∧
  Config.font.length = 80 ∧ Config.font.take 5 = [0xF0, 0x90, 0x90, 0x90, 0xF0] ∧
  (∀ r, State.reset.reg r = 0) ∧ State.reset.I = 0 ∧ State.reset.sp = 0 ∧
  (∀ k : Fin 16, State.reset.stack.get k = 0 ∧ State.reset.key.get k = false) ∧
  State.reset.dt = 0 ∧ State.reset.st = 0 ∧ ∀ r c, State.reset.disp.cell r c = false

/-- The invariant at reset: `sp` at most 16 (10_state.md R37), and the canonical form of memory, which is the model's own choice of how to
hold the 4096 bytes (log entry 4, DEDUCED), no rule of the spec. -/
def Obligations.ResetMeetsTheInvariant : Prop := State.reset.Inv

/-- Every step, from every state with the invariant, keeps it: `sp` stays at most 16 (10_state.md R37), and memory stays in its canonical
form, which is the model's own choice of how to hold the 4096 bytes (log entry 4, DEDUCED), no rule of the spec. -/
def Obligations.EveryStepKeepsTheInvariant : Prop :=
  ∀ s t : State, s.Inv → step s = .next t → t.Inv

/-- 00_scope.md R11: completed, faulted or idle, exactly one of them, and never a stop of the model. A sticky fault
and an idle step after it are the spec's decisions D2 and D16. -/
def Obligations.StepHasExactlyThreeOutcomes : Prop :=
  ∀ s : State, s.Inv → ∃ t, step s = .next t ∧
    ((s.status = .running ∧ t.status = .running ∧ (t.reports = s.reports ∨ ∃ e, t.reports = s.reports ++ [e])) ∨
     (s.status = .running ∧ t.status ≠ .running) ∨
     (s.status ≠ .running ∧ t = s))

/-! ### The step -/

/-- 40_cycle.md R100 to R102, R104, R105: the two bytes at `pc` decode, `pc` advances, the instruction executes, the timers decay
unless a fault was raised; a stop is passed on, and no instruction is refused. One decay a step is the spec's decision D3. -/
def Obligations.StepRunsTheDecodedInstruction : Prop :=
  ∀ (s : State) (i : Instr), s.status = .running → i.wellFormed = true →
    decode (wordOfBytes (s.mem.read s.pc.toNat) (s.mem.read (s.pc.toNat + 1))) = .ok i →
    (∀ t, exec i { s with pc := s.pc + 2 } = .next t → t.status = .running →
      step s = .next { t with dt := if t.dt = 0 then 0 else t.dt - 1, st := if t.st = 0 then 0 else t.st - 1 }) ∧
    (∀ t c a w, exec i { s with pc := s.pc + 2 } = .next t → t.status = .faulted c a w → step s = .next t) ∧
    (∀ r, exec i { s with pc := s.pc + 2 } = .fault r → step s = .fault r) ∧
    (∀ r, exec i { s with pc := s.pc + 2 } ≠ .refused r)

/-- 40_cycle.md R101: the fetch is two bytes, big-endian, at any `pc`, each address modulo 4096 (the spec's decisions
D1 and D6). -/
def Obligations.FetchReadsTwoBytesBigEndian : Prop :=
  ∀ s : State, s.fetchWord.toNat =
    256 * (s.mem.read (s.pc.toNat % 4096)).toNat + (s.mem.read ((s.pc.toNat + 1) % 4096)).toNat

/-- 10_state.md R23: only the low 12 bits of `pc` select the bytes fetched (the spec's decision D1). -/
def Obligations.FetchIgnoresThePcAboveTwelveBits : Prop :=
  ∀ s : State, State.fetchWord { s with pc := s.pc + 4096 } = s.fetchWord ∧ ({ s with pc := s.pc + 4096 } : State) ≠ s

/-- 40_cycle.md R106: an unknown word is reported with its fetch address, `pc` keeps its advance, the timers decay, nothing else
changes. The form of the report is the spec's decision D13. -/
def Obligations.UnknownWordIsReportedAndSkipped : Prop :=
  ∀ (s : State) (e : Unknown), s.status = .running → decode s.fetchWord = .error e →
    ∃ t, step s = .next t ∧
      t = { s with pc := s.pc + 2, reports := s.reports ++ [⟨s.pc, s.fetchWord⟩], dt := t.dt, st := t.st } ∧
      t.dt.toNat = s.dt.toNat - 1 ∧ t.st.toNat = s.st.toNat - 1

/-- 40_cycle.md R105: in every completed step, that of an unknown word among them, each timer goes down by one after the execute phase and
stays at 0, a timer the instruction has just written from that value; in a faulting or idle step neither moves. One decay a step is the
spec's decision D3. -/
def Obligations.TimersDecayOncePerCompletedStep : Prop :=
  ∀ s t : State, step s = .next t →
    (s.status = .running → t.status = .running →
      (∀ x, decode s.fetchWord = .ok (.ldDtVx x) → t.dt.toNat = (s.reg x).toNat - 1) ∧
      ((∀ x, decode s.fetchWord ≠ .ok (.ldDtVx x)) → t.dt.toNat = s.dt.toNat - 1) ∧
      (∀ x, decode s.fetchWord = .ok (.ldStVx x) → t.st.toNat = (s.reg x).toNat - 1) ∧
      ((∀ x, decode s.fetchWord ≠ .ok (.ldStVx x)) → t.st.toNat = s.st.toNat - 1)) ∧
    (t.status ≠ .running → t.dt = s.dt ∧ t.st = s.st)

/-- 44_keypad_timers.md R192: Fx07 reads the value the timer had when the step began; a timer written by Fx15 or Fx18 is one lower,
or 0, at the end of the same step. One decay a step is the spec's decision D3. -/
def Obligations.TimerAccessComesBeforeTheDecay : Prop :=
  ∀ (s : State) (x : Reg), s.status = .running →
    (decode s.fetchWord = .ok (.ldVxDt x) → ∃ t, step s = .next t ∧ t.reg x = s.dt ∧ t.dt.toNat = s.dt.toNat - 1) ∧
    (decode s.fetchWord = .ok (.ldDtVx x) → ∃ t, step s = .next t ∧ t.dt.toNat = (s.reg x).toNat - 1) ∧
    (decode s.fetchWord = .ok (.ldStVx x) → ∃ t, step s = .next t ∧ t.st.toNat = (s.reg x).toNat - 1)

/-! ### Faults -/

/-- 60_exceptions.md R221, R222, R224: a call on a full stack and a return on an empty one record the cause, the fetch address and the
word; `pc` keeps its advance, and nothing else changes, the timers included. Fatal is the spec's decision D2. -/
def Obligations.StackFaultEntryIsPrecise : Prop :=
  ∀ s : State, s.status = .running →
    (∀ nnn, decode s.fetchWord = .ok (.call nnn) → s.sp = 16 →
      step s = .next { s with pc := s.pc + 2, status := .faulted .stackOverflow s.pc s.fetchWord }) ∧
    (decode s.fetchWord = .ok .ret → s.sp = 0 →
      step s = .next { s with pc := s.pc + 2, status := .faulted .stackUnderflow s.pc 0x00EE })

/-- 60_exceptions.md R220, R228: nothing else faults. A running machine faults only in a call with 16 entries or a return with none.
Fatal is the spec's decision D2. -/
def Obligations.OnlyCallAndReturnFault : Prop :=
  ∀ (s t : State) (c : Cause) (a w : Word), s.status = .running → step s = .next t → t.status = .faulted c a w →
    ((c = .stackOverflow ∧ s.sp = 16 ∧ ∃ nnn, decode s.fetchWord = .ok (.call nnn)) ∨
     (c = .stackUnderflow ∧ s.sp = 0 ∧ decode s.fetchWord = .ok .ret)) ∧
    a = s.pc ∧ w = s.fetchWord ∧ t = { s with pc := s.pc + 2, status := .faulted c a w }

/-- 60_exceptions.md R225, 40_cycle.md R107 (the spec's decision D16): once faulted, no run of steps, whatever keys the host writes
between them, changes anything but the keypad. -/
def Obligations.FaultedMachineStaysAsItIs : Prop :=
  ∀ (s : State) (ks : List (Option (BitVec 16))), s.status ≠ .running →
    ∃ k, s.rounds ks = .next { s with key := k }

/-- The model's choice, log entry 7: in a state whose `sp` is above 16 (10_state.md R26: no such value is reachable) a call and a
return stop by name. -/
def Obligations.IllegalStackPointerStopsByName : Prop :=
  ∀ (s : State) (nnn : Word), 16 < s.sp.toNat →
    exec (.call nnn) s = .fault .illegalStackPointer ∧ exec .ret s = .fault .illegalStackPointer

/-! ### Who writes what, who reads what -/

/-- 10_state.md R38, "written by": the execute phase of an instruction leaves every element it is not listed for. -/
def Obligations.ExecuteWritesOnlyWhatIsListed : Prop :=
  ∀ (i : Instr) (s t : State) (e : Element), exec i s = .next t → e ∉ writes i → SameOn s t e

/-- 10_state.md R34: reports only grow, by at most one a step, and nothing a step does depends on them. -/
def Obligations.ReportsGrowAndAreNeverRead : Prop :=
  ∀ (s t : State) (log : List Report), step s = .next t →
    ∃ new, new.length ≤ 1 ∧ t.reports = s.reports ++ new ∧
      step { s with reports := log } = .next { t with reports := log ++ new }

/-- 10_state.md R28: no instruction reads the sound timer. -/
def Obligations.SoundTimerIsNeverRead : Prop :=
  ∀ (i : Instr) (s t : State) (v : Byte), exec i s = .next t →
    exec i { s with st := v } = .next (if Element.soundTimer ∈ writes i then t else { t with st := v })

/-! ### Encoding -/

/-- Decoding the word of a well-formed instruction gives the instruction back, every operand at every value (30_encoding.md R81 to R85). That
the ignored fields are operands too is the model's choice (log entry 18, DESIGN CHOICE). -/
def Obligations.DecodeInvertsEncode : Prop :=
  ∀ i : Instr, i.wellFormed = true → decode (encode i) = .ok i

/-- Every word that decodes is the word of the instruction it decodes to, and that instruction is well formed. That the syntax keeps the
fields an instruction ignores (`N` of 5xyN and 9xyN, `Y` of 8xy6 and 8xyE), so that no bit is lost, is the model's choice (log entry 18,
DESIGN CHOICE); the spec's assembler emits the canonical low nibble 0 (30_encoding.md R89). -/
def Obligations.EncodeInvertsDecode : Prop :=
  ∀ (op : Word) (i : Instr), decode op = .ok i → encode i = op ∧ i.wellFormed = true

/-- 30_encoding.md R85: a word decodes exactly when it selects a row, it selects the row of the instruction it decodes to, and no word
selects two of the 34 rows. The masks are the spec's decision D7. -/
def Obligations.DecoderFollowsTheOpcodeMap : Prop :=
  opcodeRows.length = 34 ∧
  (∀ op, (∃ i, decode op = .ok i) ↔ ∃ r ∈ opcodeRows, r.selects op = true) ∧
  (∀ op i, decode op = .ok i → rowOf i ∈ opcodeRows ∧ (rowOf i).selects op = true) ∧
  opcodeRows.Pairwise fun r r' => ∀ op, ¬(r.selects op = true ∧ r'.selects op = true)

/-- 30_encoding.md R86: which words are unknown, family by family. The masks are the spec's decision D7. -/
def Obligations.UnknownWordsByFamily : Prop :=
  ∀ op : Word,
    (decode op = .error .family0 ↔ op.toNat < 0x1000 ∧ op ≠ 0x00E0 ∧ op ≠ 0x00EE) ∧
    (decode op = .error .family8 ↔ op.toNat / 0x1000 = 8 ∧ op.toNat % 16 ∈ [8, 9, 10, 11, 12, 13, 15]) ∧
    (decode op = .error .familyE ↔ op.toNat / 0x1000 = 14 ∧ op.toNat % 256 ∉ [0x9E, 0xA1]) ∧
    (decode op = .error .familyF ↔ op.toNat / 0x1000 = 15 ∧
      op.toNat % 256 ∉ [0x07, 0x0A, 0x15, 0x18, 0x1E, 0x29, 0x33, 0x55, 0x65])

/-- Words written out from the patterns of 30_encoding.md R84, for each format and each instruction file of the opcode table, and one unknown word (the masks are
the spec's decision D7). -/
def Obligations.SampleWordsDecodeAsTheTableSays : Prop :=
  decode 0b0000_0000_1110_1110 = .ok .ret ∧ decode 0b0010_0010_0001_0000 = .ok (.call 0x210) ∧
  decode 0b0011_0001_1111_1111 = .ok (.seI 1 0xFF) ∧ decode 0b0101_0010_0011_0001 = .ok (.seR 2 3 1) ∧
  decode 0b1000_0001_0010_0101 = .ok (.sub 1 2) ∧ decode 0b1000_0001_0010_1110 = .ok (.shl 1 2) ∧
  decode 0b1101_0001_0010_1111 = .ok (.drw 1 2 15) ∧ decode 0b1110_0100_1010_0001 = .ok (.sknp 4) ∧
  decode 0b1111_0010_0000_1010 = .ok (.ldVxK 2) ∧ decode 0b1111_0001_0101_0101 = .ok (.stRegs 1) ∧
  decode 0b1000_0001_0010_1000 = .error .family8

/-! ### Control transfer -/

/-- 41_flow.md R121, R123: JP and JP_V0 set `pc` and nothing else; with an encodable `nnn` the sum of JP_V0 never wraps
(90_conflicts.md C13). -/
def Obligations.JumpsSetThePc : Prop :=
  ∀ (nnn : Word) (s : State),
    exec (.jp nnn) s = .next { s with pc := nnn } ∧
    ∃ t, exec (.jpV0 nnn) s = .next t ∧ t = { s with pc := t.pc } ∧
      t.pc.toNat = (nnn.toNat + (s.reg 0).toNat) % 65536 ∧
      ((Instr.jpV0 nnn).wellFormed = true → t.pc.toNat = nnn.toNat + (s.reg 0).toNat)

/-- 41_flow.md R124 to R127: the compare-and-skip instructions add 2 to `pc` modulo 65536 when their condition holds, and write nothing
else; the low nibble of 5xyN and 9xyN changes nothing. The wrap of `pc` is the spec's decision D20. -/
def Obligations.CompareAndSkip : Prop :=
  ∀ (x y : Reg) (nn : Byte) (n : Nibble) (s : State),
    ∀ p ∈ [(Instr.seI x nn, decide (s.reg x = nn)), (Instr.sneI x nn, decide (s.reg x ≠ nn)),
           (Instr.seR x y n, decide (s.reg x = s.reg y)), (Instr.sneR x y n, decide (s.reg x ≠ s.reg y))],
      ∃ t, exec p.1 s = .next t ∧ t = { s with pc := t.pc } ∧
        t.pc.toNat = if p.2 = true then (s.pc.toNat + 2) % 65536 else s.pc.toNat

/-- 41_flow.md R122: a call below the nesting limit pushes the address after it and jumps; on a full stack it raises the overflow, with
nothing pushed (fatal is the spec's decision D2). -/
def Obligations.CallPushesOrOverflows : Prop :=
  ∀ (nnn : Word) (s : State), (Instr.call nnn).wellFormed = true →
    (s.sp.toNat < 16 → ∃ t, exec (.call nnn) s = .next t ∧ t = { s with stack := t.stack, sp := t.sp, pc := nnn } ∧
      t.sp.toNat = s.sp.toNat + 1 ∧
      ∀ k : Fin 16, t.stack.get k = if k.val = s.sp.toNat then s.pc else s.stack.get k) ∧
    (s.sp = 16 → ∃ w : Word, w.toNat = 0x2000 + nnn.toNat ∧
      exec (.call nnn) s = .next { s with status := .faulted .stackOverflow (s.pc - 2) w })

/-- 41_flow.md R120: a return with an entry on the stack pops it into `pc`, and the entry keeps its value; on an empty stack it raises the
underflow (fatal is the spec's decision D2). -/
def Obligations.ReturnPopsOrUnderflows : Prop :=
  ∀ s : State,
    (0 < s.sp.toNat → s.sp.toNat ≤ 16 → ∃ t, exec .ret s = .next t ∧ t = { s with sp := t.sp, pc := t.pc } ∧
      t.sp.toNat + 1 = s.sp.toNat ∧ ∀ k : Fin 16, k.val + 1 = s.sp.toNat → t.pc = s.stack.get k) ∧
    (s.sp = 0 → exec .ret s = .next { s with status := .faulted .stackUnderflow (s.pc - 2) 0x00EE })

/-- 40_cycle.md R102, 41_flow.md R122: a return right after a call resumes at the instruction after the call, with the stack as deep as
before. -/
def Obligations.ReturnAfterCallResumesAfterTheCall : Prop :=
  ∀ (nnn : Word) (s : State), s.sp.toNat < 16 →
    ∃ t u, exec (.call nnn) s = .next t ∧ exec .ret t = .next u ∧ u = { s with stack := t.stack }

/-! ### Registers and the ALU -/

/-- 42_alu.md R140, R142, 44_keypad_timers.md R188: the register loads write `x[X]` alone. -/
def Obligations.RegisterLoadsWriteOneRegister : Prop :=
  ∀ (x y : Reg) (nn : Byte) (s : State),
    ∀ p ∈ [(Instr.ldI x nn, nn), (Instr.ldR x y, s.reg y), (Instr.ldVxDt x, s.dt)],
      ∃ t, exec p.1 s = .next t ∧ t = { s with x := t.x } ∧ ∀ q, t.reg q = if q = x then p.2 else s.reg q

/-- 42_alu.md R141: add immediate wraps modulo 256 and sets no flag. -/
def Obligations.AddImmediateWrapsAndSetsNoFlag : Prop :=
  ∀ (x : Reg) (nn : Byte) (s : State),
    ∃ t, exec (.addI x nn) s = .next t ∧ t = { s with x := t.x } ∧
      (t.reg x).toNat = ((s.reg x).toNat + nn.toNat) % 256 ∧ ∀ q, q ≠ x → t.reg q = s.reg q

/-- 42_alu.md R143 to R145: the logic operations work bit by bit and leave every other register, `x[15]` among them. -/
def Obligations.LogicIsBitwiseAndSetsNoFlag : Prop :=
  ∀ (x y : Reg) (s : State),
    (∃ t, exec (.or x y) s = .next t ∧ t = { s with x := t.x } ∧ (∀ q, q ≠ x → t.reg q = s.reg q) ∧
      ∀ k, (t.reg x).getLsbD k = ((s.reg x).getLsbD k || (s.reg y).getLsbD k)) ∧
    (∃ t, exec (.and x y) s = .next t ∧ t = { s with x := t.x } ∧ (∀ q, q ≠ x → t.reg q = s.reg q) ∧
      ∀ k, (t.reg x).getLsbD k = ((s.reg x).getLsbD k && (s.reg y).getLsbD k)) ∧
    (∃ t, exec (.xor x y) s = .next t ∧ t = { s with x := t.x } ∧ (∀ q, q ≠ x → t.reg q = s.reg q) ∧
      ∀ k, (t.reg x).getLsbD k = ((s.reg x).getLsbD k ^^ (s.reg y).getLsbD k))

/-- 42_alu.md R146, R154: the sum modulo 256 and the carry; with `x = 15` the carry stays (the spec's decision D8). -/
def Obligations.AddRegisterSetsTheCarry : Prop :=
  ∀ (x y : Reg) (s : State),
    ∃ t, exec (.addR x y) s = .next t ∧ t = { s with x := t.x } ∧
      (x ≠ 15 → (t.reg x).toNat = ((s.reg x).toNat + (s.reg y).toNat) % 256) ∧
      t.reg 15 = (if (s.reg x).toNat + (s.reg y).toNat > 255 then 1 else 0) ∧
      ∀ q, q ≠ x → q ≠ 15 → t.reg q = s.reg q

/-- 42_alu.md R147, R149, R153, R154: the difference modulo 256 and the strict comparison, for SUB and SUBN; with `x = 15` the difference
stays (the spec's decision D8). -/
def Obligations.SubtractionsSetTheStrictFlag : Prop :=
  ∀ (x y : Reg) (s : State),
    ∀ p ∈ [(Instr.sub x y, s.reg x, s.reg y), (Instr.subn x y, s.reg y, s.reg x)],
      ∃ t, exec p.1 s = .next t ∧ t = { s with x := t.x } ∧
        (t.reg x).toNat = (if p.2.1.toNat < p.2.2.toNat then p.2.1.toNat + 256 - p.2.2.toNat
          else p.2.1.toNat - p.2.2.toNat) ∧
        (x ≠ 15 → t.reg 15 = if p.2.1.toNat > p.2.2.toNat then 1 else 0) ∧
        ∀ q, q ≠ x → q ≠ 15 → t.reg q = s.reg q

/-- 42_alu.md R148, R150, R154: the shifts move one bit of `x[X]` out into the flag and ignore `Y`; with `x = 15` the result stays (the
spec's decision D8). -/
def Obligations.ShiftsMoveOneBitIntoTheFlag : Prop :=
  ∀ (x y : Reg) (s : State),
    (∃ t, exec (.shr x y) s = .next t ∧ t = { s with x := t.x } ∧ (t.reg x).toNat = (s.reg x).toNat / 2 ∧
      (x ≠ 15 → (t.reg 15).toNat = (s.reg x).toNat % 2) ∧ ∀ q, q ≠ x → q ≠ 15 → t.reg q = s.reg q) ∧
    (∃ t, exec (.shl x y) s = .next t ∧ t = { s with x := t.x } ∧ (t.reg x).toNat = 2 * (s.reg x).toNat % 256 ∧
      (x ≠ 15 → (t.reg 15).toNat = (s.reg x).toNat / 128) ∧ ∀ q, q ≠ x → q ≠ 15 → t.reg q = s.reg q)

/-- 42_alu.md R151, 10_state.md R32: one byte of the random input is consumed whatever `nn` is, and `x[X]` takes it masked. The clauses on
`rndIn` and `rndDrawn`, and that a byte nobody supplied is a free value, are the model's own choice of how to carry that input (log
entry 3, DESIGN CHOICE), no rule of the spec. -/
def Obligations.RandomLoadMasksOneConsumedByte : Prop :=
  ∀ (x : Reg) (nn : Byte) (s : State),
    ∃ r t, exec (.rnd x nn) s = .next t ∧
      t = { s with x := t.x, rndIn := s.rndIn.drop 1, rndDrawn := s.rndDrawn + 1 } ∧
      (∀ q, t.reg q = if q = x then r &&& nn else s.reg q) ∧
      ∀ b rest, s.rndIn = b :: rest → r = b

/-! ### Display -/

/-- 43_display.md R170: every cell off, nothing else changes. -/
def Obligations.ClearTurnsEveryCellOff : Prop :=
  ∀ s : State, ∃ t, exec .cls s = .next t ∧ t = { s with disp := t.disp } ∧ ∀ r c, t.disp.cell r c = false

/-- 43_display.md R171 to R173: the drawing loop is the exclusive or of the display with the clipped sprite, and `x[15]` says whether a
set pixel of the sprite met a cell that was on. Clipping is the spec's decision D4, the bit order D10. -/
def Obligations.DrawIsExclusiveOrWithCollision : Prop :=
  ∀ (x y : Reg) (n : Nat) (s : State),
    ∃ t, exec (.drw x y n) s = .next t ∧ t = { s with x := t.x, disp := t.disp } ∧
      (∀ r c, t.disp.cell r c = (s.disp.cell r c ^^ s.spritePixel x y n r c)) ∧
      ((∃ r c, s.spritePixel x y n r c = true ∧ s.disp.cell r c = true) → t.reg 15 = 1) ∧
      ((¬∃ r c, s.spritePixel x y n r c = true ∧ s.disp.cell r c = true) → t.reg 15 = 0) ∧
      ∀ q, q ≠ 15 → t.reg q = s.reg q

/-- 43_display.md R171: drawing the same sprite twice at the same place restores the display, and the second draw collides when a set
pixel inside the frame fell on a cell that was off before the first (log entry 25). -/
def Obligations.DrawingTwiceRestoresTheDisplay : Prop :=
  ∀ (x y : Reg) (n : Nat) (s : State), x ≠ 15 → y ≠ 15 →
    ∃ t u, exec (.drw x y n) s = .next t ∧ exec (.drw x y n) t = .next u ∧ u = { s with x := u.x } ∧
      (u.reg 15 = 1 ↔ ∃ r c, s.spritePixel x y n r c = true ∧ s.disp.cell r c = false)

/-! ### Keypad and timers -/

/-- 44_keypad_timers.md R185, R186, R191: the key tested is the low nibble of `x[X]` (the spec's decision D9). -/
def Obligations.KeySkipsTestTheNamedKey : Prop :=
  ∀ (x : Reg) (s : State) (k : Fin 16), (s.reg x).toNat % 16 = k.val →
    ∀ p ∈ [(Instr.skp x, s.key.get k), (Instr.sknp x, !s.key.get k)],
      ∃ t, exec p.1 s = .next t ∧ t = { s with pc := t.pc } ∧
        t.pc.toNat = if p.2 = true then (s.pc.toNat + 2) % 65536 else s.pc.toNat

/-- 44_keypad_timers.md R187: the lowest pressed key is stored; with none pressed `pc` goes back by 2 modulo 65536 (the spec's
decision D20). -/
def Obligations.KeyWaitTakesTheLowestKeyOrRewinds : Prop :=
  ∀ (x : Reg) (s : State), ∃ t, exec (.ldVxK x) s = .next t ∧
    (∀ k : Fin 16, s.key.get k = true → (∀ j, j < k → s.key.get j = false) →
      t = { s with x := t.x } ∧ (t.reg x).toNat = k.val ∧ ∀ q, q ≠ x → t.reg q = s.reg q) ∧
    ((∀ k : Fin 16, s.key.get k = false) → t = { s with pc := t.pc } ∧ (t.pc.toNat + 2) % 65536 = s.pc.toNat)

/-- 44_keypad_timers.md R187: while no key is pressed a machine at Fx0A stays there, for any number of steps, and only its timers run
down, one a step (the spec's decision D3). -/
def Obligations.WaitingForAKeyRunsOnlyTheTimers : Prop :=
  ∀ (x : Reg) (s : State) (n : Nat), s.status = .running → decode s.fetchWord = .ok (.ldVxK x) →
    (∀ k : Fin 16, s.key.get k = false) →
    ∃ t, s.steps n = .next t ∧ t = { s with dt := t.dt, st := t.st } ∧
      t.dt.toNat = s.dt.toNat - n ∧ t.st.toNat = s.st.toNat - n

/-- 44_keypad_timers.md R189, R190: the execute phase of Fx15 and Fx18 writes one timer. -/
def Obligations.TimerWritesSetOneTimer : Prop :=
  ∀ (x : Reg) (s : State),
    (∃ t, exec (.ldDtVx x) s = .next t ∧ t = { s with dt := t.dt } ∧ t.dt = s.reg x) ∧
    (∃ t, exec (.ldStVx x) s = .next t ∧ t = { s with st := t.st } ∧ t.st = s.reg x)

/-- 70_reset_and_hazards.md R267: from a jump to its own address on only `dt` and `st` change, and they only decrease to 0, one
a step (the spec's decision D3). -/
def Obligations.IdleLoopChangesOnlyTheTimers : Prop :=
  ∀ (s : State) (n : Nat), s.status = .running → decode s.fetchWord = .ok (.jp s.pc) →
    ∃ t, s.steps n = .next t ∧ t = { s with dt := t.dt, st := t.st } ∧
      t.dt.toNat = s.dt.toNat - n ∧ t.st.toNat = s.st.toNat - n

/-! ### Index register and memory -/

/-- 45_index_memory.md R200 to R202: the three writers of `I`, each without a flag and without a mask. -/
def Obligations.IndexLoadsWriteOnlyTheIndex : Prop :=
  ∀ (nnn : Word) (x : Reg) (s : State),
    (∃ t, exec (.ldIdx nnn) s = .next t ∧ t = { s with I := t.I } ∧ t.I = nnn) ∧
    (∃ t, exec (.addIdx x) s = .next t ∧ t = { s with I := t.I } ∧
      t.I.toNat = (s.I.toNat + (s.reg x).toNat) % 65536) ∧
    (∃ t, exec (.ldF x) s = .next t ∧ t = { s with I := t.I } ∧ t.I.toNat = 0x50 + 5 * (s.reg x).toNat)

/-- 45_index_memory.md R203: three digits at `I`, `I + 1`, `I + 2` (each modulo 4096, the spec's decision D1), every other byte unchanged. -/
def Obligations.DecimalDigitsAreStored : Prop :=
  ∀ (x : Reg) (s : State), ∃ t, exec (.ldB x) s = .next t ∧ t = { s with mem := t.mem } ∧
    (t.mem.read (s.effAddr 0)).toNat = (s.reg x).toNat / 100 ∧
    (t.mem.read (s.effAddr 1)).toNat = (s.reg x).toNat / 10 % 10 ∧
    (t.mem.read (s.effAddr 2)).toNat = (s.reg x).toNat % 10 ∧
    ∀ a, (∀ k < 3, a % 4096 ≠ s.effAddr k % 4096) → t.mem.read a = s.mem.read a

/-- 45_index_memory.md R204: `x[0]` to `x[X]` at `I` up (each address modulo 4096, the spec's decision D1), every other byte unchanged. -/
def Obligations.RegisterBlockIsStored : Prop :=
  ∀ (x : Reg) (s : State), ∃ t, exec (.stRegs x) s = .next t ∧ t = { s with mem := t.mem } ∧
    (∀ k : Reg, k ≤ x → t.mem.read (s.effAddr k.val) = s.reg k) ∧
    ∀ a, (∀ k : Reg, k ≤ x → a % 4096 ≠ s.effAddr k.val % 4096) → t.mem.read a = s.mem.read a

/-- 45_index_memory.md R205: `x[0]` to `x[X]` from memory at `I` up (each address modulo 4096, the spec's decision D1), the registers
above `X` unchanged. -/
def Obligations.RegisterBlockIsLoaded : Prop :=
  ∀ (x : Reg) (s : State), ∃ t, exec (.ldRegs x) s = .next t ∧ t = { s with x := t.x } ∧
    ∀ q, t.reg q = if q ≤ x then s.mem.read (s.effAddr q.val) else s.reg q

/-- 45_index_memory.md R205, the round trip: a load right after a store from the same `I` gives the stored registers back, whatever the
registers hold in between. -/
def Obligations.LoadAfterStoreRestoresTheRegisters : Prop :=
  ∀ (x : Reg) (s : State) (other : Vector Byte 16), ∃ t u, exec (.stRegs x) s = .next t ∧
    exec (.ldRegs x) { t with x := other } = .next u ∧ ∀ q, q ≤ x → u.reg q = s.reg q

/-- 20_memory.md R62: bytes stored by Fx55 over the two bytes after itself are the very next word fetched, also across the end of memory (the spec's
decision D1). -/
def Obligations.StoredBytesAreTheNextWordFetched : Prop :=
  ∀ (x : Reg) (s : State), s.status = .running → decode s.fetchWord = .ok (.stRegs x) → 1 ≤ x →
    s.I.toNat % 4096 = (s.pc + 2).toNat % 4096 →
    ∃ t, step s = .next t ∧ t.pc = s.pc + 2 ∧ t.fetchWord = wordOfBytes (s.reg 0) (s.reg 1)

/-! ### The host interface -/

/-- 40_cycle.md R110: an image of at most 3584 bytes is copied to 0x200 verbatim and nothing else changes. -/
def Obligations.LoadCopiesTheImageVerbatim : Prop :=
  ∀ (h : Session) (image : List Byte), h.phase = .fresh → image.length ≤ 3584 →
    ∃ g, h.load image = (.done, g) ∧ g.core = { h.core with mem := g.core.mem } ∧
      (∀ k (hk : k < image.length), g.core.mem.read (0x200 + k) = image[k]) ∧
      ∀ a, a < 4096 → (a < 0x200 ∨ 0x200 + image.length ≤ a) → g.core.mem.read a = h.core.mem.read a

/-- 70_reset_and_hazards.md R261, 40_cycle.md R101, R110, 10_state.md R37: after reset and a load the first fetch reads the first two bytes
of the image, the first as the high byte, and zero for a byte that an image of one or no byte lacks. The canonical form of memory inside
`Inv` is the model's own (log entry 4, DEDUCED). -/
def Obligations.FirstFetchReadsTheImage : Prop :=
  ∀ (image : List Byte) (s : State), LoadedOnce image s →
    s.Running ∧ s.Inv ∧ s.pc.toNat = 0x200 ∧ s.fetchWord = wordOfBytes (image.getD 0 0) (image.getD 1 0)

/-- 40_cycle.md R111, R112 (the spec's decision D15): a too long image changes nothing and may be followed by another load; after a
successful load, and after any step of any session, a load is refused and changes nothing; and once a load is refused, so is every later
one, whatever the host writes to its ports in between. -/
def Obligations.LoadOutsideItsContractChangesNothing : Prop :=
  ∀ (h : Session) (image image' : List Byte),
    (h.phase = .fresh → 3584 < image.length → h.load image = (.loadError, h)) ∧
    (h.phase = .fresh → image.length ≤ 3584 → (h.load image).2.load image' = (.refused, (h.load image).2)) ∧
    (∀ g, h.step = .next g → g.load image = (.refused, g)) ∧
    ((h.load image).1 = .refused → ∀ (keyIn : BitVec 16) (bytes : List Byte),
      ∀ g ∈ [h, h.writeKeyPort keyIn, h.supplyRandom bytes], g.load image' = (.refused, g))

/-- 60_exceptions.md R240 to R242: bit `k` of the keypad port is key `k` and nothing else changes; output `64 * r + c` is the cell in row
`r`, column `c`; the sound gate is open exactly when `st` is not 0. The ports are the spec's decision D19. -/
def Obligations.HostPortsCarryTheirBits : Prop :=
  ∀ (s : State) (keyIn : BitVec 16),
    (∃ t, s.writeKeyPort keyIn = t ∧ t = { s with key := t.key } ∧ ∀ k : Fin 16, t.key.get k = keyIn.getLsbD k.val) ∧
    s.displayOut.length = 2048 ∧
    (∀ (r : Fin 32) (c : Fin 64), s.displayOut[64 * r.val + c.val]? = some (s.disp.cell r c)) ∧
    (s.soundOn = true ↔ 0 < s.st.toNat)
end

