-- ==== Sys2Proof/Laws/Encoding.lean ====
section
/-! SUPPORT. The fields of a word in each format, and the two bytes of a word. -/

namespace Sys2Proof

theorem regField_toNat (r : Reg) : (regField r).toNat = r.val := by
  simp only [regField, BitVec.toNat_ofNat]
  omega

@[simp] theorem fieldF_formatA (f : Nibble) (nnn : Word) : fieldF (formatA f nnn) = f := by
  apply BitVec.eq_of_getLsbD_eq
  intro i hi
  simp only [fieldF, formatA, BitVec.getLsbD_extractLsb', BitVec.getLsbD_append]
  interval_cases i <;> simp

@[simp] theorem fieldNNN_formatA (f : Nibble) (nnn : Word) :
    fieldNNN (formatA f nnn) = (nnn.setWidth 12).setWidth 16 := by
  apply BitVec.eq_of_getLsbD_eq
  intro i hi
  simp only [fieldNNN, formatA, BitVec.getLsbD_setWidth, BitVec.getLsbD_extractLsb', BitVec.getLsbD_append]
  by_cases h : i < 12 <;> simp [h, hi]

/-- An address that fits the field survives it. -/
theorem setWidth_fitsNNN {nnn : Word} (h : fitsNNN nnn = true) : (nnn.setWidth 12).setWidth 16 = nnn := by
  have : nnn.toNat < 4096 := by simpa [fitsNNN] using h
  apply BitVec.eq_of_toNat_eq
  simp only [BitVec.toNat_setWidth]
  omega

@[simp] theorem fieldF_formatXB (f : Nibble) (x : Reg) (nn : Byte) : fieldF (formatXB f x nn) = f := by
  apply BitVec.eq_of_getLsbD_eq
  intro i hi
  simp only [fieldF, formatXB, BitVec.getLsbD_extractLsb', BitVec.getLsbD_append]
  interval_cases i <;> simp

@[simp] theorem fieldNN_formatXB (f : Nibble) (x : Reg) (nn : Byte) : fieldNN (formatXB f x nn) = nn := by
  apply BitVec.eq_of_getLsbD_eq
  intro i hi
  simp only [fieldNN, formatXB, BitVec.getLsbD_extractLsb', BitVec.getLsbD_append]
  interval_cases i <;> simp

/-- A register index read from the nibble it was written to. -/
theorem ofNat_regField (r : Reg) : Fin.ofNat 16 (regField r).toNat = r := by
  apply Fin.ext
  simp only [Fin.ofNat, regField_toNat]
  omega

@[simp] theorem fieldX_formatXB (f : Nibble) (x : Reg) (nn : Byte) : fieldX (formatXB f x nn) = x := by
  have : (formatXB f x nn).extractLsb' 8 4 = regField x := by
    apply BitVec.eq_of_getLsbD_eq
    intro i hi
    simp only [formatXB, BitVec.getLsbD_extractLsb', BitVec.getLsbD_append]
    interval_cases i <;> simp
  rw [fieldX, this, ofNat_regField]

@[simp] theorem fieldF_formatXY (f : Nibble) (x y : Reg) (n : Nibble) : fieldF (formatXY f x y n) = f := by
  apply BitVec.eq_of_getLsbD_eq
  intro i hi
  simp only [fieldF, formatXY, BitVec.getLsbD_extractLsb', BitVec.getLsbD_append]
  interval_cases i <;> simp

@[simp] theorem fieldX_formatXY (f : Nibble) (x y : Reg) (n : Nibble) : fieldX (formatXY f x y n) = x := by
  have : (formatXY f x y n).extractLsb' 8 4 = regField x := by
    apply BitVec.eq_of_getLsbD_eq
    intro i hi
    simp only [formatXY, BitVec.getLsbD_extractLsb', BitVec.getLsbD_append]
    interval_cases i <;> simp
  rw [fieldX, this, ofNat_regField]

@[simp] theorem fieldY_formatXY (f : Nibble) (x y : Reg) (n : Nibble) : fieldY (formatXY f x y n) = y := by
  have : (formatXY f x y n).extractLsb' 4 4 = regField y := by
    apply BitVec.eq_of_getLsbD_eq
    intro i hi
    simp only [formatXY, BitVec.getLsbD_extractLsb', BitVec.getLsbD_append]
    interval_cases i <;> simp
  rw [fieldY, this, ofNat_regField]

@[simp] theorem fieldN_formatXY (f : Nibble) (x y : Reg) (n : Nibble) : fieldN (formatXY f x y n) = n := by
  apply BitVec.eq_of_getLsbD_eq
  intro i hi
  simp only [fieldN, formatXY, BitVec.getLsbD_extractLsb', BitVec.getLsbD_append]
  interval_cases i <;> simp

/-- A word is its two bytes, high byte first (20_memory.md R52). -/
@[simp] theorem wordOfBytes_hiByte_loByte (w : Word) : wordOfBytes (hiByte w) (loByte w) = w := by
  apply BitVec.eq_of_getLsbD_eq
  intro i hi
  simp only [wordOfBytes, hiByte, loByte, BitVec.getLsbD_append, BitVec.getLsbD_extractLsb']
  by_cases h : i < 8
  · simp [h]
  · simp [h, show i - 8 < 8 by omega, show 8 + (i - 8) = i by omega]

end Sys2Proof
end

