-- ==== Sys2Proof/Laws/Memory.lean ====
section
/-! SUPPORT. What the memory operations do, for every memory, and that they keep the canonical form. -/

namespace Sys2Proof.Machine.Memory

/-! ### Reading after writing -/

theorem erase_unlists (m : Memory) (a : Nat) : ∀ c ∈ m.erase a, c.1 ≠ a := by
  induction m with
  | nil => simp [erase]
  | cons c m ih =>
    by_cases hk : c.1 = a
    · simpa [erase, hk] using ih
    · simpa [erase, hk] using ih

theorem lookup_unlisted {m : Memory} {a : Nat} (h : ∀ c ∈ m, c.1 ≠ a) : m.lookup a = resetByte a := by
  induction m with
  | nil => rfl
  | cons c m ih =>
    obtain ⟨hk, hm⟩ := List.forall_mem_cons.1 h
    simpa [lookup, hk] using ih hm

theorem lookup_erase_ne (m : Memory) {a b : Nat} (h : b ≠ a) : (m.erase a).lookup b = m.lookup b := by
  induction m with
  | nil => rfl
  | cons c m ih =>
    by_cases hk : c.1 = a
    · simp [erase, lookup, hk, ih, h.symm]
    · simp [erase, lookup, hk, ih]

theorem lookup_insert_self {m : Memory} {a : Nat} (v : Byte) (h : ∀ c ∈ m, c.1 ≠ a) :
    (m.insert a v).lookup a = v := by
  induction m with
  | nil => simp [insert, lookup]
  | cons c m ih =>
    obtain ⟨hk, hm⟩ := List.forall_mem_cons.1 h
    by_cases hlt : a < c.1
    · simp [insert, lookup, hlt]
    · simpa [insert, lookup, hlt, hk] using ih hm

theorem lookup_insert_ne (m : Memory) {a b : Nat} (v : Byte) (h : b ≠ a) :
    (m.insert a v).lookup b = m.lookup b := by
  induction m with
  | nil => simp [insert, lookup, h.symm]
  | cons c m ih =>
    by_cases hlt : a < c.1
    · simp [insert, lookup, hlt, h.symm]
    · simp [insert, lookup, hlt, ih]

/-- A byte after `put`: the new one at its own address, the old one elsewhere. -/
theorem lookup_put (m : Memory) (a b : Nat) (v : Byte) :
    (m.put a v).lookup b = if b = a then v else m.lookup b := by
  by_cases hb : b = a
  · subst hb
    by_cases hv : v = resetByte b
    · simp [put, hv, lookup_unlisted (m.erase_unlists b)]
    · simp [put, hv, lookup_insert_self v (m.erase_unlists b)]
  · by_cases hv : v = resetByte a
    · simp [put, hv, hb, lookup_erase_ne]
    · simp [put, hv, hb, lookup_insert_ne, lookup_erase_ne]

/-- A read after a write: the written byte at every address that reduces to the same one, the old byte elsewhere. -/
theorem read_write (m : Memory) (a b : Nat) (v : Byte) :
    (m.write a v).read b = if wrapAddr b = wrapAddr a then v else m.read b :=
  lookup_put m (wrapAddr a) (wrapAddr b) v

theorem wrapAddr_eq_iff (a b : Nat) : wrapAddr a = wrapAddr b ↔ a % 4096 = b % 4096 := Iff.rfl

/-- Only the address modulo 4096 matters to a read. -/
theorem read_congr (m : Memory) {a b : Nat} (h : wrapAddr a = wrapAddr b) : m.read a = m.read b := by
  simp [read, h]

/-- A run of bytes leaves every other address alone. -/
theorem read_writeBytes_outside (m : Memory) (a b : Nat) (vs : List Byte)
    (h : ∀ k < vs.length, wrapAddr b ≠ wrapAddr (a + k)) : (m.writeBytes a vs).read b = m.read b := by
  induction vs generalizing m a with
  | nil => rfl
  | cons v vs ih =>
    have h0 : wrapAddr b ≠ wrapAddr a := by simpa using h 0 (by simp)
    have hs : ∀ k < vs.length, wrapAddr b ≠ wrapAddr (a + 1 + k) := fun k hk => by
      have := h (k + 1) (by simpa using hk)
      rwa [Nat.add_right_comm, Nat.add_assoc]
    rw [writeBytes, ih _ _ hs, read_write, if_neg h0]

/-- A run of at most 4096 bytes stores its `k`-th byte at the `k`-th address (20_memory.md R63: no byte is met twice). -/
theorem read_writeBytes_inside (m : Memory) (a k : Nat) (vs : List Byte) (hl : vs.length ≤ 4096)
    (hk : k < vs.length) : (m.writeBytes a vs).read (a + k) = vs[k] := by
  induction vs generalizing m a k with
  | nil => simp at hk
  | cons v vs ih =>
    simp only [List.length_cons] at hl hk
    cases k with
    | zero =>
      rw [writeBytes, read_writeBytes_outside, Nat.add_zero, read_write, if_pos rfl, List.getElem_cons_zero]
      intro j hj
      simp only [ne_eq, wrapAddr_eq_iff]
      omega
    | succ k =>
      have := ih (m.write a v) (a + 1) k (by omega) (by omega)
      rw [writeBytes, List.getElem_cons_succ, ← this]
      congr 1
      omega

/-! ### The canonical form -/

theorem rising_mono {m : Memory} {lo lo' : Nat} (h : rising lo m = true) (hle : lo' ≤ lo) :
    rising lo' m = true := by
  cases m with
  | nil => rfl
  | cons c m =>
    simp only [rising, Bool.and_eq_true, decide_eq_true_eq] at h ⊢
    exact ⟨by omega, h.2⟩

theorem rising_erase {m : Memory} {lo : Nat} (a : Nat) (h : rising lo m = true) :
    rising lo (m.erase a) = true := by
  induction m generalizing lo with
  | nil => rfl
  | cons c m ih =>
    simp only [rising, Bool.and_eq_true, decide_eq_true_eq] at h
    by_cases hk : c.1 = a
    · simpa [erase, hk] using rising_mono (ih h.2) (by omega)
    · simpa [erase, hk, rising, h.1] using ih h.2

theorem rising_insert {m : Memory} {lo a : Nat} (v : Byte) (h : rising lo m = true) (hlo : lo ≤ a)
    (hn : ∀ c ∈ m, c.1 ≠ a) : rising lo (m.insert a v) = true := by
  induction m generalizing lo with
  | nil => simpa [insert, rising] using hlo
  | cons c m ih =>
    simp only [rising, Bool.and_eq_true, decide_eq_true_eq] at h
    obtain ⟨hk, hm⟩ := List.forall_mem_cons.1 hn
    by_cases hlt : a < c.1
    · simp only [insert, hlt, if_true, rising, Bool.and_eq_true, decide_eq_true_eq]
      exact ⟨hlo, by omega, h.2⟩
    · simp only [insert, hlt, if_false, rising, Bool.and_eq_true, decide_eq_true_eq]
      exact ⟨h.1, ih h.2 (by omega) hm⟩

theorem mem_of_mem_erase {m : Memory} {a : Nat} {c : Host.Cell} (h : c ∈ m.erase a) : c ∈ m := by
  induction m with
  | nil => simp [erase] at h
  | cons d m ih =>
    by_cases hk : d.1 = a
    · exact List.mem_cons_of_mem _ (ih (by simpa [erase, hk] using h))
    · rcases List.mem_cons.1 (by simpa [erase, hk] using h) with h | h
      · exact h ▸ List.mem_cons_self
      · exact List.mem_cons_of_mem _ (ih h)

theorem mem_insert {m : Memory} {a : Nat} {v : Byte} {c : Host.Cell} (h : c ∈ m.insert a v) :
    c = (a, v) ∨ c ∈ m := by
  induction m with
  | nil => simpa [insert] using h
  | cons d m ih =>
    by_cases hlt : a < d.1
    · simpa [insert, hlt] using h
    · rcases List.mem_cons.1 (by simpa [insert, hlt] using h) with h | h
      · exact .inr (h ▸ List.mem_cons_self)
      · exact (ih h).imp id (List.mem_cons_of_mem _)

theorem wf_iff (m : Memory) :
    m.wf = true ↔ rising 0 m = true ∧ ∀ c ∈ m, c.1 < 4096 ∧ c.2 ≠ resetByte c.1 := by
  simp only [wf, Bool.and_eq_true, List.all_eq_true, decide_eq_true_eq, bne_iff_ne]

/-- A write keeps the canonical form. -/
theorem wf_write {m : Memory} (h : m.wf = true) (a : Nat) (v : Byte) : (m.write a v).wf = true := by
  rw [wf_iff] at h ⊢
  have ha : wrapAddr a < 4096 := Nat.mod_lt _ (by decide)
  have he := rising_erase (wrapAddr a) h.1
  by_cases hv : v = resetByte (wrapAddr a)
  · rw [write, put, if_pos hv]
    exact ⟨he, fun c hc => h.2 c (mem_of_mem_erase hc)⟩
  · rw [write, put, if_neg hv]
    refine ⟨rising_insert v he (Nat.zero_le _) (m.erase_unlists _), fun c hc => ?_⟩
    rcases mem_insert hc with rfl | hc
    · exact ⟨ha, hv⟩
    · exact h.2 c (mem_of_mem_erase hc)

/-- So does a run of writes. -/
theorem wf_writeBytes {m : Memory} (h : m.wf = true) (a : Nat) (vs : List Byte) :
    (m.writeBytes a vs).wf = true := by
  induction vs generalizing m a with
  | nil => exact h
  | cons v vs ih => exact ih (wf_write h a v) (a + 1)

/-- Reset memory has the canonical form: nothing is listed. -/
theorem wf_nil : Memory.wf [] = true := rfl

end Sys2Proof.Machine.Memory
end

