-- ==== Sys2Proof/Laws/State.lean ====
section
/-! SUPPORT. One lemma per field per update of the state, so that no proof unfolds a record update, and the same for reading a
register. -/

namespace Sys2Proof.Machine.State

variable (s : State)

/-! ### `setReg` -/

@[simp] theorem setReg_mem (r : Reg) (v : Byte) : (s.setReg r v).mem = s.mem := rfl
@[simp] theorem setReg_x (r : Reg) (v : Byte) : (s.setReg r v).x = s.x.set r.val v := rfl
@[simp] theorem setReg_I (r : Reg) (v : Byte) : (s.setReg r v).I = s.I := rfl
@[simp] theorem setReg_pc (r : Reg) (v : Byte) : (s.setReg r v).pc = s.pc := rfl
@[simp] theorem setReg_stack (r : Reg) (v : Byte) : (s.setReg r v).stack = s.stack := rfl
@[simp] theorem setReg_sp (r : Reg) (v : Byte) : (s.setReg r v).sp = s.sp := rfl
@[simp] theorem setReg_dt (r : Reg) (v : Byte) : (s.setReg r v).dt = s.dt := rfl
@[simp] theorem setReg_st (r : Reg) (v : Byte) : (s.setReg r v).st = s.st := rfl
@[simp] theorem setReg_key (r : Reg) (v : Byte) : (s.setReg r v).key = s.key := rfl
@[simp] theorem setReg_disp (r : Reg) (v : Byte) : (s.setReg r v).disp = s.disp := rfl
@[simp] theorem setReg_status (r : Reg) (v : Byte) : (s.setReg r v).status = s.status := rfl
@[simp] theorem setReg_reports (r : Reg) (v : Byte) : (s.setReg r v).reports = s.reports := rfl
@[simp] theorem setReg_rndIn (r : Reg) (v : Byte) : (s.setReg r v).rndIn = s.rndIn := rfl
@[simp] theorem setReg_rndDrawn (r : Reg) (v : Byte) : (s.setReg r v).rndDrawn = s.rndDrawn := rfl

/-! ### `setRegs` -/

@[simp] theorem setRegs_mem (x : Vector Byte 16) : (s.setRegs x).mem = s.mem := rfl
@[simp] theorem setRegs_x (x : Vector Byte 16) : (s.setRegs x).x = x := rfl
@[simp] theorem setRegs_I (x : Vector Byte 16) : (s.setRegs x).I = s.I := rfl
@[simp] theorem setRegs_pc (x : Vector Byte 16) : (s.setRegs x).pc = s.pc := rfl
@[simp] theorem setRegs_stack (x : Vector Byte 16) : (s.setRegs x).stack = s.stack := rfl
@[simp] theorem setRegs_sp (x : Vector Byte 16) : (s.setRegs x).sp = s.sp := rfl
@[simp] theorem setRegs_dt (x : Vector Byte 16) : (s.setRegs x).dt = s.dt := rfl
@[simp] theorem setRegs_st (x : Vector Byte 16) : (s.setRegs x).st = s.st := rfl
@[simp] theorem setRegs_key (x : Vector Byte 16) : (s.setRegs x).key = s.key := rfl
@[simp] theorem setRegs_disp (x : Vector Byte 16) : (s.setRegs x).disp = s.disp := rfl
@[simp] theorem setRegs_status (x : Vector Byte 16) : (s.setRegs x).status = s.status := rfl
@[simp] theorem setRegs_reports (x : Vector Byte 16) : (s.setRegs x).reports = s.reports := rfl
@[simp] theorem setRegs_rndIn (x : Vector Byte 16) : (s.setRegs x).rndIn = s.rndIn := rfl
@[simp] theorem setRegs_rndDrawn (x : Vector Byte 16) : (s.setRegs x).rndDrawn = s.rndDrawn := rfl

/-! ### `setI` -/

@[simp] theorem setI_mem (v : Word) : (s.setI v).mem = s.mem := rfl
@[simp] theorem setI_x (v : Word) : (s.setI v).x = s.x := rfl
@[simp] theorem setI_I (v : Word) : (s.setI v).I = v := rfl
@[simp] theorem setI_pc (v : Word) : (s.setI v).pc = s.pc := rfl
@[simp] theorem setI_stack (v : Word) : (s.setI v).stack = s.stack := rfl
@[simp] theorem setI_sp (v : Word) : (s.setI v).sp = s.sp := rfl
@[simp] theorem setI_dt (v : Word) : (s.setI v).dt = s.dt := rfl
@[simp] theorem setI_st (v : Word) : (s.setI v).st = s.st := rfl
@[simp] theorem setI_key (v : Word) : (s.setI v).key = s.key := rfl
@[simp] theorem setI_disp (v : Word) : (s.setI v).disp = s.disp := rfl
@[simp] theorem setI_status (v : Word) : (s.setI v).status = s.status := rfl
@[simp] theorem setI_reports (v : Word) : (s.setI v).reports = s.reports := rfl
@[simp] theorem setI_rndIn (v : Word) : (s.setI v).rndIn = s.rndIn := rfl
@[simp] theorem setI_rndDrawn (v : Word) : (s.setI v).rndDrawn = s.rndDrawn := rfl
@[simp] theorem reg_setI (v : Word) (q : Reg) : (s.setI v).reg q = s.reg q := rfl

/-! ### `setPc` -/

@[simp] theorem setPc_mem (v : Word) : (s.setPc v).mem = s.mem := rfl
@[simp] theorem setPc_x (v : Word) : (s.setPc v).x = s.x := rfl
@[simp] theorem setPc_I (v : Word) : (s.setPc v).I = s.I := rfl
@[simp] theorem setPc_pc (v : Word) : (s.setPc v).pc = v := rfl
@[simp] theorem setPc_stack (v : Word) : (s.setPc v).stack = s.stack := rfl
@[simp] theorem setPc_sp (v : Word) : (s.setPc v).sp = s.sp := rfl
@[simp] theorem setPc_dt (v : Word) : (s.setPc v).dt = s.dt := rfl
@[simp] theorem setPc_st (v : Word) : (s.setPc v).st = s.st := rfl
@[simp] theorem setPc_key (v : Word) : (s.setPc v).key = s.key := rfl
@[simp] theorem setPc_disp (v : Word) : (s.setPc v).disp = s.disp := rfl
@[simp] theorem setPc_status (v : Word) : (s.setPc v).status = s.status := rfl
@[simp] theorem setPc_reports (v : Word) : (s.setPc v).reports = s.reports := rfl
@[simp] theorem setPc_rndIn (v : Word) : (s.setPc v).rndIn = s.rndIn := rfl
@[simp] theorem setPc_rndDrawn (v : Word) : (s.setPc v).rndDrawn = s.rndDrawn := rfl
@[simp] theorem reg_setPc (v : Word) (q : Reg) : (s.setPc v).reg q = s.reg q := rfl

/-! ### `setDt` -/

@[simp] theorem setDt_mem (v : Byte) : (s.setDt v).mem = s.mem := rfl
@[simp] theorem setDt_x (v : Byte) : (s.setDt v).x = s.x := rfl
@[simp] theorem setDt_I (v : Byte) : (s.setDt v).I = s.I := rfl
@[simp] theorem setDt_pc (v : Byte) : (s.setDt v).pc = s.pc := rfl
@[simp] theorem setDt_stack (v : Byte) : (s.setDt v).stack = s.stack := rfl
@[simp] theorem setDt_sp (v : Byte) : (s.setDt v).sp = s.sp := rfl
@[simp] theorem setDt_dt (v : Byte) : (s.setDt v).dt = v := rfl
@[simp] theorem setDt_st (v : Byte) : (s.setDt v).st = s.st := rfl
@[simp] theorem setDt_key (v : Byte) : (s.setDt v).key = s.key := rfl
@[simp] theorem setDt_disp (v : Byte) : (s.setDt v).disp = s.disp := rfl
@[simp] theorem setDt_status (v : Byte) : (s.setDt v).status = s.status := rfl
@[simp] theorem setDt_reports (v : Byte) : (s.setDt v).reports = s.reports := rfl
@[simp] theorem setDt_rndIn (v : Byte) : (s.setDt v).rndIn = s.rndIn := rfl
@[simp] theorem setDt_rndDrawn (v : Byte) : (s.setDt v).rndDrawn = s.rndDrawn := rfl
@[simp] theorem reg_setDt (v : Byte) (q : Reg) : (s.setDt v).reg q = s.reg q := rfl

/-! ### `setSt` -/

@[simp] theorem setSt_mem (v : Byte) : (s.setSt v).mem = s.mem := rfl
@[simp] theorem setSt_x (v : Byte) : (s.setSt v).x = s.x := rfl
@[simp] theorem setSt_I (v : Byte) : (s.setSt v).I = s.I := rfl
@[simp] theorem setSt_pc (v : Byte) : (s.setSt v).pc = s.pc := rfl
@[simp] theorem setSt_stack (v : Byte) : (s.setSt v).stack = s.stack := rfl
@[simp] theorem setSt_sp (v : Byte) : (s.setSt v).sp = s.sp := rfl
@[simp] theorem setSt_dt (v : Byte) : (s.setSt v).dt = s.dt := rfl
@[simp] theorem setSt_st (v : Byte) : (s.setSt v).st = v := rfl
@[simp] theorem setSt_key (v : Byte) : (s.setSt v).key = s.key := rfl
@[simp] theorem setSt_disp (v : Byte) : (s.setSt v).disp = s.disp := rfl
@[simp] theorem setSt_status (v : Byte) : (s.setSt v).status = s.status := rfl
@[simp] theorem setSt_reports (v : Byte) : (s.setSt v).reports = s.reports := rfl
@[simp] theorem setSt_rndIn (v : Byte) : (s.setSt v).rndIn = s.rndIn := rfl
@[simp] theorem setSt_rndDrawn (v : Byte) : (s.setSt v).rndDrawn = s.rndDrawn := rfl
@[simp] theorem reg_setSt (v : Byte) (q : Reg) : (s.setSt v).reg q = s.reg q := rfl

/-! ### `setMem` -/

@[simp] theorem setMem_mem (m : Memory) : (s.setMem m).mem = m := rfl
@[simp] theorem setMem_x (m : Memory) : (s.setMem m).x = s.x := rfl
@[simp] theorem setMem_I (m : Memory) : (s.setMem m).I = s.I := rfl
@[simp] theorem setMem_pc (m : Memory) : (s.setMem m).pc = s.pc := rfl
@[simp] theorem setMem_stack (m : Memory) : (s.setMem m).stack = s.stack := rfl
@[simp] theorem setMem_sp (m : Memory) : (s.setMem m).sp = s.sp := rfl
@[simp] theorem setMem_dt (m : Memory) : (s.setMem m).dt = s.dt := rfl
@[simp] theorem setMem_st (m : Memory) : (s.setMem m).st = s.st := rfl
@[simp] theorem setMem_key (m : Memory) : (s.setMem m).key = s.key := rfl
@[simp] theorem setMem_disp (m : Memory) : (s.setMem m).disp = s.disp := rfl
@[simp] theorem setMem_status (m : Memory) : (s.setMem m).status = s.status := rfl
@[simp] theorem setMem_reports (m : Memory) : (s.setMem m).reports = s.reports := rfl
@[simp] theorem setMem_rndIn (m : Memory) : (s.setMem m).rndIn = s.rndIn := rfl
@[simp] theorem setMem_rndDrawn (m : Memory) : (s.setMem m).rndDrawn = s.rndDrawn := rfl
@[simp] theorem reg_setMem (m : Memory) (q : Reg) : (s.setMem m).reg q = s.reg q := rfl

/-! ### `setDisp` -/

@[simp] theorem setDisp_mem (d : Display) : (s.setDisp d).mem = s.mem := rfl
@[simp] theorem setDisp_x (d : Display) : (s.setDisp d).x = s.x := rfl
@[simp] theorem setDisp_I (d : Display) : (s.setDisp d).I = s.I := rfl
@[simp] theorem setDisp_pc (d : Display) : (s.setDisp d).pc = s.pc := rfl
@[simp] theorem setDisp_stack (d : Display) : (s.setDisp d).stack = s.stack := rfl
@[simp] theorem setDisp_sp (d : Display) : (s.setDisp d).sp = s.sp := rfl
@[simp] theorem setDisp_dt (d : Display) : (s.setDisp d).dt = s.dt := rfl
@[simp] theorem setDisp_st (d : Display) : (s.setDisp d).st = s.st := rfl
@[simp] theorem setDisp_key (d : Display) : (s.setDisp d).key = s.key := rfl
@[simp] theorem setDisp_disp (d : Display) : (s.setDisp d).disp = d := rfl
@[simp] theorem setDisp_status (d : Display) : (s.setDisp d).status = s.status := rfl
@[simp] theorem setDisp_reports (d : Display) : (s.setDisp d).reports = s.reports := rfl
@[simp] theorem setDisp_rndIn (d : Display) : (s.setDisp d).rndIn = s.rndIn := rfl
@[simp] theorem setDisp_rndDrawn (d : Display) : (s.setDisp d).rndDrawn = s.rndDrawn := rfl
@[simp] theorem reg_setDisp (d : Display) (q : Reg) : (s.setDisp d).reg q = s.reg q := rfl

/-! ### `setKey` -/

@[simp] theorem setKey_mem (k : Keypad) : (s.setKey k).mem = s.mem := rfl
@[simp] theorem setKey_x (k : Keypad) : (s.setKey k).x = s.x := rfl
@[simp] theorem setKey_I (k : Keypad) : (s.setKey k).I = s.I := rfl
@[simp] theorem setKey_pc (k : Keypad) : (s.setKey k).pc = s.pc := rfl
@[simp] theorem setKey_stack (k : Keypad) : (s.setKey k).stack = s.stack := rfl
@[simp] theorem setKey_sp (k : Keypad) : (s.setKey k).sp = s.sp := rfl
@[simp] theorem setKey_dt (k : Keypad) : (s.setKey k).dt = s.dt := rfl
@[simp] theorem setKey_st (k : Keypad) : (s.setKey k).st = s.st := rfl
@[simp] theorem setKey_key (k : Keypad) : (s.setKey k).key = k := rfl
@[simp] theorem setKey_disp (k : Keypad) : (s.setKey k).disp = s.disp := rfl
@[simp] theorem setKey_status (k : Keypad) : (s.setKey k).status = s.status := rfl
@[simp] theorem setKey_reports (k : Keypad) : (s.setKey k).reports = s.reports := rfl
@[simp] theorem setKey_rndIn (k : Keypad) : (s.setKey k).rndIn = s.rndIn := rfl
@[simp] theorem setKey_rndDrawn (k : Keypad) : (s.setKey k).rndDrawn = s.rndDrawn := rfl
@[simp] theorem reg_setKey (k : Keypad) (q : Reg) : (s.setKey k).reg q = s.reg q := rfl

/-! ### `push` -/

@[simp] theorem push_mem (v : Word) (h : s.sp.toNat < 16) : (s.push v h).mem = s.mem := rfl
@[simp] theorem push_x (v : Word) (h : s.sp.toNat < 16) : (s.push v h).x = s.x := rfl
@[simp] theorem push_I (v : Word) (h : s.sp.toNat < 16) : (s.push v h).I = s.I := rfl
@[simp] theorem push_pc (v : Word) (h : s.sp.toNat < 16) : (s.push v h).pc = s.pc := rfl
@[simp] theorem push_stack (v : Word) (h : s.sp.toNat < 16) : (s.push v h).stack = s.stack.set s.sp.toNat v h := rfl
@[simp] theorem push_sp (v : Word) (h : s.sp.toNat < 16) : (s.push v h).sp = s.sp + 1 := rfl
@[simp] theorem push_dt (v : Word) (h : s.sp.toNat < 16) : (s.push v h).dt = s.dt := rfl
@[simp] theorem push_st (v : Word) (h : s.sp.toNat < 16) : (s.push v h).st = s.st := rfl
@[simp] theorem push_key (v : Word) (h : s.sp.toNat < 16) : (s.push v h).key = s.key := rfl
@[simp] theorem push_disp (v : Word) (h : s.sp.toNat < 16) : (s.push v h).disp = s.disp := rfl
@[simp] theorem push_status (v : Word) (h : s.sp.toNat < 16) : (s.push v h).status = s.status := rfl
@[simp] theorem push_reports (v : Word) (h : s.sp.toNat < 16) : (s.push v h).reports = s.reports := rfl
@[simp] theorem push_rndIn (v : Word) (h : s.sp.toNat < 16) : (s.push v h).rndIn = s.rndIn := rfl
@[simp] theorem push_rndDrawn (v : Word) (h : s.sp.toNat < 16) : (s.push v h).rndDrawn = s.rndDrawn := rfl
@[simp] theorem reg_push (v : Word) (h : s.sp.toNat < 16) (q : Reg) : (s.push v h).reg q = s.reg q := rfl

/-! ### `drop` -/

@[simp] theorem drop_mem : s.drop.mem = s.mem := rfl
@[simp] theorem drop_x : s.drop.x = s.x := rfl
@[simp] theorem drop_I : s.drop.I = s.I := rfl
@[simp] theorem drop_pc : s.drop.pc = s.pc := rfl
@[simp] theorem drop_stack : s.drop.stack = s.stack := rfl
@[simp] theorem drop_sp : s.drop.sp = s.sp - 1 := rfl
@[simp] theorem drop_dt : s.drop.dt = s.dt := rfl
@[simp] theorem drop_st : s.drop.st = s.st := rfl
@[simp] theorem drop_key : s.drop.key = s.key := rfl
@[simp] theorem drop_disp : s.drop.disp = s.disp := rfl
@[simp] theorem drop_status : s.drop.status = s.status := rfl
@[simp] theorem drop_reports : s.drop.reports = s.reports := rfl
@[simp] theorem drop_rndIn : s.drop.rndIn = s.rndIn := rfl
@[simp] theorem drop_rndDrawn : s.drop.rndDrawn = s.rndDrawn := rfl
@[simp] theorem reg_drop (q : Reg) : s.drop.reg q = s.reg q := rfl

/-! ### `raise` -/

@[simp] theorem raise_mem (c : Cause) (op : Word) : (s.raise c op).mem = s.mem := rfl
@[simp] theorem raise_x (c : Cause) (op : Word) : (s.raise c op).x = s.x := rfl
@[simp] theorem raise_I (c : Cause) (op : Word) : (s.raise c op).I = s.I := rfl
@[simp] theorem raise_pc (c : Cause) (op : Word) : (s.raise c op).pc = s.pc := rfl
@[simp] theorem raise_stack (c : Cause) (op : Word) : (s.raise c op).stack = s.stack := rfl
@[simp] theorem raise_sp (c : Cause) (op : Word) : (s.raise c op).sp = s.sp := rfl
@[simp] theorem raise_dt (c : Cause) (op : Word) : (s.raise c op).dt = s.dt := rfl
@[simp] theorem raise_st (c : Cause) (op : Word) : (s.raise c op).st = s.st := rfl
@[simp] theorem raise_key (c : Cause) (op : Word) : (s.raise c op).key = s.key := rfl
@[simp] theorem raise_disp (c : Cause) (op : Word) : (s.raise c op).disp = s.disp := rfl
@[simp] theorem raise_status (c : Cause) (op : Word) : (s.raise c op).status = .faulted c (s.pc - 2) op := rfl
@[simp] theorem raise_reports (c : Cause) (op : Word) : (s.raise c op).reports = s.reports := rfl
@[simp] theorem raise_rndIn (c : Cause) (op : Word) : (s.raise c op).rndIn = s.rndIn := rfl
@[simp] theorem raise_rndDrawn (c : Cause) (op : Word) : (s.raise c op).rndDrawn = s.rndDrawn := rfl
@[simp] theorem reg_raise (c : Cause) (op : Word) (q : Reg) : (s.raise c op).reg q = s.reg q := rfl

/-! ### `report` -/

@[simp] theorem report_mem (a op : Word) : (s.report a op).mem = s.mem := rfl
@[simp] theorem report_x (a op : Word) : (s.report a op).x = s.x := rfl
@[simp] theorem report_I (a op : Word) : (s.report a op).I = s.I := rfl
@[simp] theorem report_pc (a op : Word) : (s.report a op).pc = s.pc := rfl
@[simp] theorem report_stack (a op : Word) : (s.report a op).stack = s.stack := rfl
@[simp] theorem report_sp (a op : Word) : (s.report a op).sp = s.sp := rfl
@[simp] theorem report_dt (a op : Word) : (s.report a op).dt = s.dt := rfl
@[simp] theorem report_st (a op : Word) : (s.report a op).st = s.st := rfl
@[simp] theorem report_key (a op : Word) : (s.report a op).key = s.key := rfl
@[simp] theorem report_disp (a op : Word) : (s.report a op).disp = s.disp := rfl
@[simp] theorem report_status (a op : Word) : (s.report a op).status = s.status := rfl
@[simp] theorem report_reports (a op : Word) : (s.report a op).reports = s.reports ++ [⟨a, op⟩] := rfl
@[simp] theorem report_rndIn (a op : Word) : (s.report a op).rndIn = s.rndIn := rfl
@[simp] theorem report_rndDrawn (a op : Word) : (s.report a op).rndDrawn = s.rndDrawn := rfl
@[simp] theorem reg_report (a op : Word) (q : Reg) : (s.report a op).reg q = s.reg q := rfl

/-! ### `afterDraw` -/

@[simp] theorem afterDraw_mem : s.afterDraw.mem = s.mem := rfl
@[simp] theorem afterDraw_x : s.afterDraw.x = s.x := rfl
@[simp] theorem afterDraw_I : s.afterDraw.I = s.I := rfl
@[simp] theorem afterDraw_pc : s.afterDraw.pc = s.pc := rfl
@[simp] theorem afterDraw_stack : s.afterDraw.stack = s.stack := rfl
@[simp] theorem afterDraw_sp : s.afterDraw.sp = s.sp := rfl
@[simp] theorem afterDraw_dt : s.afterDraw.dt = s.dt := rfl
@[simp] theorem afterDraw_st : s.afterDraw.st = s.st := rfl
@[simp] theorem afterDraw_key : s.afterDraw.key = s.key := rfl
@[simp] theorem afterDraw_disp : s.afterDraw.disp = s.disp := rfl
@[simp] theorem afterDraw_status : s.afterDraw.status = s.status := rfl
@[simp] theorem afterDraw_reports : s.afterDraw.reports = s.reports := rfl
@[simp] theorem afterDraw_rndIn : s.afterDraw.rndIn = s.rndIn.tail := rfl
@[simp] theorem afterDraw_rndDrawn : s.afterDraw.rndDrawn = s.rndDrawn + 1 := rfl
@[simp] theorem reg_afterDraw (q : Reg) : s.afterDraw.reg q = s.reg q := rfl

/-! ### `advance` -/

@[simp] theorem advance_mem : s.advance.mem = s.mem := rfl
@[simp] theorem advance_x : s.advance.x = s.x := rfl
@[simp] theorem advance_I : s.advance.I = s.I := rfl
@[simp] theorem advance_pc : s.advance.pc = s.pc + 2 := rfl
@[simp] theorem advance_stack : s.advance.stack = s.stack := rfl
@[simp] theorem advance_sp : s.advance.sp = s.sp := rfl
@[simp] theorem advance_dt : s.advance.dt = s.dt := rfl
@[simp] theorem advance_st : s.advance.st = s.st := rfl
@[simp] theorem advance_key : s.advance.key = s.key := rfl
@[simp] theorem advance_disp : s.advance.disp = s.disp := rfl
@[simp] theorem advance_status : s.advance.status = s.status := rfl
@[simp] theorem advance_reports : s.advance.reports = s.reports := rfl
@[simp] theorem advance_rndIn : s.advance.rndIn = s.rndIn := rfl
@[simp] theorem advance_rndDrawn : s.advance.rndDrawn = s.rndDrawn := rfl
@[simp] theorem reg_advance (q : Reg) : s.advance.reg q = s.reg q := rfl

/-! ### `decay` -/

@[simp] theorem decay_mem : s.decay.mem = s.mem := rfl
@[simp] theorem decay_x : s.decay.x = s.x := rfl
@[simp] theorem decay_I : s.decay.I = s.I := rfl
@[simp] theorem decay_pc : s.decay.pc = s.pc := rfl
@[simp] theorem decay_stack : s.decay.stack = s.stack := rfl
@[simp] theorem decay_sp : s.decay.sp = s.sp := rfl
@[simp] theorem decay_dt : s.decay.dt = decayTimer s.dt := rfl
@[simp] theorem decay_st : s.decay.st = decayTimer s.st := rfl
@[simp] theorem decay_key : s.decay.key = s.key := rfl
@[simp] theorem decay_disp : s.decay.disp = s.disp := rfl
@[simp] theorem decay_status : s.decay.status = s.status := rfl
@[simp] theorem decay_reports : s.decay.reports = s.reports := rfl
@[simp] theorem decay_rndIn : s.decay.rndIn = s.rndIn := rfl
@[simp] theorem decay_rndDrawn : s.decay.rndDrawn = s.rndDrawn := rfl
@[simp] theorem reg_decay (q : Reg) : s.decay.reg q = s.reg q := rfl

/-! ### Reading a register after a write -/

/-- `x[q]` after `x[r] <- v`. -/
theorem reg_setReg (r q : Reg) (v : Byte) : (s.setReg r v).reg q = if q = r then v else s.reg q := by
  simp only [reg, setReg, Vector.get_eq_getElem, Vector.getElem_set, eq_comm, Fin.ext_iff]

@[simp] theorem reg_setReg_self (r : Reg) (v : Byte) : (s.setReg r v).reg r = v := by simp [reg_setReg]

theorem reg_setReg_ne {r q : Reg} (h : q ≠ r) (v : Byte) : (s.setReg r v).reg q = s.reg q := by
  simp [reg_setReg, h]

@[simp] theorem reg_setRegs (x : Vector Byte 16) (q : Reg) : (s.setRegs x).reg q = x.get q := rfl

end Sys2Proof.Machine.State
end

