-- ==== Sys2Proof/Laws/Operations.lean ====
section
/-! SUPPORT. What each shared operation can do, said once. -/

namespace Sys2Proof.Machine

/-! ### Registers and `pc` -/

/-- A skip only chooses where `pc` goes. -/
theorem State.skipIf_eq (s : State) (c : Bool) : s.skipIf c = s.setPc (if c then s.pc + 2 else s.pc) := by
  cases c <;> rfl

/-- `x[q]` after the flag and then the result: with `r = 15` the result stays (42_alu.md R154). -/
theorem State.reg_flagThenResult (s : State) (r q : Reg) (flag result : Byte) :
    (s.flagThenResult r flag result).reg q = if q = r then result else if q = vf then flag else s.reg q := by
  simp [State.flagThenResult, State.reg_setReg]

/-- `x[q]` after the result and then the flag: with `r = 15` the flag stays (42_alu.md R154). -/
theorem State.reg_resultThenFlag (s : State) (r q : Reg) (result flag : Byte) :
    (s.resultThenFlag r result flag).reg q = if q = vf then flag else if q = r then result else s.reg q := by
  simp [State.resultThenFlag, State.reg_setReg]

/-- A flag and a result leave everything but the register file. -/
theorem State.flagThenResult_eq (s : State) (r : Reg) (flag result : Byte) :
    s.flagThenResult r flag result = s.setRegs (s.flagThenResult r flag result).x := rfl

theorem State.resultThenFlag_eq (s : State) (r : Reg) (result flag : Byte) :
    s.resultThenFlag r result flag = s.setRegs (s.resultThenFlag r result flag).x := rfl

/-! ### Memory through the fetch -/

/-- The fetch after a word was laid at `pc` reads that word, whatever `pc` is (it wraps at the end of memory). -/
theorem State.fetchWord_placeWord (s : State) (op : Word) : (s.placeWord op).fetchWord = op := by
  have hl : [hiByte op, loByte op].length ≤ 4096 := by simp
  have h0 := s.mem.read_writeBytes_inside s.pc.toNat 0 [hiByte op, loByte op] hl (by simp)
  have h1 := s.mem.read_writeBytes_inside s.pc.toNat 1 [hiByte op, loByte op] hl (by simp)
  have h0' : (s.mem.writeBytes s.pc.toNat [hiByte op, loByte op]).read s.pc.toNat = hiByte op := h0
  have h1' : (s.mem.writeBytes s.pc.toNat [hiByte op, loByte op]).read (s.pc.toNat + 1) = loByte op := h1
  simp [State.fetchWord, State.placeWord, Memory.readWord, h0', h1']

/-! ### Timers and the end of a step -/

theorem decayTimer_toNat (t : Byte) : (decayTimer t).toNat = t.toNat - 1 := by
  by_cases h : t = 0
  · simp [decayTimer, h]
  · have : t.toNat ≠ 0 := fun h0 => h (BitVec.eq_of_toNat_eq (by simpa using h0))
    rw [decayTimer, if_neg h, BitVec.toNat_sub_of_le (by simp [BitVec.le_def]; omega)]
    rfl

theorem State.endStep_running {s : State} (h : s.status = .running) : s.endStep = s.decay := by
  simp [State.endStep, h]

theorem State.endStep_faulted {s : State} {c : Cause} {a w : Word} (h : s.status = .faulted c a w) :
    s.endStep = s := by
  simp [State.endStep, h]

/-- What follows the execute phase answers a next state only after one (40_cycle.md R105). -/
theorem finish_eq_next {o : Host.Outcome State Fault Refusal} {t : State} (h : finish o = .next t) :
    ∃ u, o = .next u ∧ t = u.endStep := by
  cases o with
  | next u => exact ⟨u, rfl, by simpa [finish] using h.symm⟩
  | fault r => simp [finish] at h
  | refused r => simp [finish] at h

/-! ### A step, by its three cases (40_cycle.md R100, R106, R107) -/

theorem step_faulted {s : State} {c : Cause} {a w : Word} (h : s.status = .faulted c a w) :
    step s = .next s := by
  simp [step, stepFaulted, h]

theorem step_decoded {s : State} {i : Instr} (h : s.status = .running) (hd : decode s.fetchWord = .ok i) :
    step s = finish (exec i s.advance) := by
  simp [step, stepRunning, h, hd]

theorem step_unknown {s : State} {e : Unknown} (h : s.status = .running) (hd : decode s.fetchWord = .error e) :
    step s = .next s.reportUnknown := by
  simp [step, stepRunning, h, hd]

/-- Everything a step can do when it answers a next state. -/
theorem step_cases {s t : State} (h : step s = .next t) :
    (∃ c a w, s.status = .faulted c a w ∧ t = s) ∨
    (s.status = .running ∧ ∃ i u, decode s.fetchWord = .ok i ∧ exec i s.advance = .next u ∧ t = u.endStep) ∨
    (s.status = .running ∧ ∃ e, decode s.fetchWord = .error e ∧ t = s.reportUnknown) := by
  cases hs : s.status with
  | faulted c a w =>
    rw [step_faulted hs] at h
    exact .inl ⟨c, a, w, rfl, by simpa using h.symm⟩
  | running =>
    cases hd : decode s.fetchWord with
    | ok i =>
      rw [step_decoded hs hd] at h
      obtain ⟨u, hu, ht⟩ := finish_eq_next h
      exact .inr (.inl ⟨rfl, i, u, rfl, hu, ht⟩)
    | error e =>
      rw [step_unknown hs hd] at h
      exact .inr (.inr ⟨rfl, e, rfl, by simpa using h.symm⟩)

/-! ### Runs -/

theorem State.steps_succ {s t : State} (h : step s = .next t) (n : Nat) : s.steps (n + 1) = t.steps n := by
  simp only [State.steps, h]

theorem State.rounds_cons {s t : State} {k : Option (BitVec 16)} (h : s.round k = .next t)
    (ks : List (Option (BitVec 16))) : s.rounds (k :: ks) = t.rounds ks := by
  simp only [State.rounds, h]

/-! ### The four outcomes of the stack instructions (41_flow.md R120, R122) -/

theorem execCall_push {s : State} (nnn : Word) (h : s.sp.toNat < 16) :
    exec (.call nnn) s = .next ((s.push s.pc h).setPc nnn) := by
  have hne : s.sp ≠ 16 := fun h16 => by simp [h16] at h
  simp only [exec, execCall]
  rw [if_neg hne, dif_pos h]

theorem execCall_full {s : State} (nnn : Word) (h : s.sp = 16) :
    exec (.call nnn) s = .next (s.raise .stackOverflow (encode (.call nnn))) := by
  simp [exec, execCall, h]

theorem execRet_pop {s : State} (h : 0 < s.sp.toNat ∧ s.sp.toNat ≤ 16) :
    exec .ret s = .next (s.drop.setPc (s.top h)) := by
  have hne : s.sp ≠ 0 := fun h0 => by simp [h0] at h
  simp only [exec, execRet]
  rw [if_neg hne, dif_pos h]

theorem execRet_empty {s : State} (h : s.sp = 0) :
    exec .ret s = .next (s.raise .stackUnderflow (encode .ret)) := by
  simp [exec, execRet, h]

/-- Everything a call can do when it answers a next state. -/
theorem execCall_cases {s t : State} {nnn : Word} (h : exec (.call nnn) s = .next t) :
    (s.sp = 16 ∧ t = s.raise .stackOverflow (encode (.call nnn))) ∨
    (∃ hs : s.sp.toNat < 16, t = (s.push s.pc hs).setPc nnn) := by
  simp only [exec, execCall] at h
  split at h
  · exact .inl ⟨‹_›, by simpa using h.symm⟩
  · split at h
    · exact .inr ⟨‹_›, by simpa using h.symm⟩
    · simp at h

/-- Everything a return can do when it answers a next state. -/
theorem execRet_cases {s t : State} (h : exec .ret s = .next t) :
    (s.sp = 0 ∧ t = s.raise .stackUnderflow (encode .ret)) ∨
    (∃ hs : 0 < s.sp.toNat ∧ s.sp.toNat ≤ 16, t = s.drop.setPc (s.top hs)) := by
  simp only [exec, execRet] at h
  split at h
  · exact .inl ⟨‹_›, by simpa using h.symm⟩
  · split at h
    · exact .inr ⟨‹_›, by simpa using h.symm⟩
    · simp at h

/-! ### The display -/

/-- The cells after one is toggled. -/
theorem Display.cell_toggle (d : Display) (r r' : Fin 32) (c c' : Fin 64) :
    (d.toggle r c).cell r' c' = if r' = r ∧ c' = c then !d.cell r c else d.cell r' c' := by
  simp only [Display.toggle, Display.cell, Vector.get_eq_getElem, Vector.getElem_set]
  by_cases hr : r' = r
  · subst hr
    by_cases hc : c' = c
    · simp [hc]
    · simp [hc, show ¬ c.val = c'.val from fun h => hc (Fin.ext h.symm)]
  · simp [hr, show ¬ r.val = r'.val from fun h => hr (Fin.ext h.symm)]

@[simp] theorem Display.cell_blank (r : Fin 32) (c : Fin 64) : Display.blank.cell r c = false := by
  simp [Display.blank, Display.cell, Vector.get_eq_getElem]

end Sys2Proof.Machine
end

