-- ==== Sys2Proof/Laws/Operands.lean ====
section
/-! SUPPORT. What the operand forms give (Machine/Operands.lean), as numbers. -/

namespace Sys2Proof.Machine

/-- A register value added to an address wraps at 16 bits. -/
theorem addByte_toNat (a : Word) (v : Byte) : (addByte a v).toNat = (a.toNat + v.toNat) % 65536 := by
  simp [addByte, BitVec.toNat_add]

/-- The address of a glyph never wraps. -/
theorem glyphAddr_toNat (v : Byte) : (glyphAddr v).toNat = 0x50 + 5 * v.toNat := by
  have := v.isLt
  simp [glyphAddr, Config.fontBase, BitVec.toNat_add, BitVec.toNat_mul]
  omega

/-- The key a register value names is its low nibble. -/
theorem keyOf_val (v : Byte) : (keyOf v).val = v.toNat % 16 := rfl

@[simp] theorem digits_length (v : Byte) : (digits v).length = 3 := rfl

/-- `X + 1` registers are in the block of `x[0]` to `x[X]`. -/
theorem State.regBlock_length (s : State) (r : Reg) : (s.regBlock r).length = r.val + 1 := by
  simp [State.regBlock]

theorem State.regBlock_getElem (s : State) (r k : Reg) (h : k.val < (s.regBlock r).length) :
    (s.regBlock r)[k.val] = s.reg k := by
  simp [State.regBlock, State.reg, Vector.get_eq_getElem]

/-- A loaded register file: memory up to `X`, the old value above. -/
theorem State.loadedRegs_get (s : State) (r q : Reg) :
    (s.loadedRegs r).get q = if q ≤ r then s.mem.read (s.effAddr q.val) else s.reg q := by
  simp [State.loadedRegs, Vector.get_eq_getElem]

/-- The lowest pressed key is the one found. -/
theorem lowestKey_eq_some {key : Keypad} {k : Fin 16} (h : key.get k = true)
    (hl : ∀ j, j < k → key.get j = false) : lowestKey key = some k := by
  unfold lowestKey
  cases hf : (List.finRange 16).find? (fun k => key.get k) with
  | none => rw [List.find?_eq_none] at hf; exact absurd h (hf k (List.mem_finRange k))
  | some j =>
    have hj : key.get j = true := List.find?_some hf
    have : ¬ j < k := fun hlt => by rw [hl j hlt] at hj; cases hj
    have : ¬ k < j := by
      intro hkj
      rw [List.find?_eq_some_iff_getElem] at hf
      obtain ⟨_, i, hi, he, hb⟩ := hf
      have hij : i = j.val := by simpa using congrArg Fin.val he
      have := hb k.val (by rw [hij]; exact hkj)
      simp at this
      rw [h] at this; cases this
    congr 1; apply Fin.ext; omega

/-- With no key pressed none is found. -/
theorem lowestKey_eq_none {key : Keypad} (h : ∀ k : Fin 16, key.get k = false) : lowestKey key = none := by
  unfold lowestKey
  rw [List.find?_eq_none]
  intro k _; simp [h k]

end Sys2Proof.Machine
end

