-- ==== Sys2Proof/Laws/PerInstr.lean ====
section
/-! SUPPORT. Family EncodesInItsRow: every instruction's word selects the instruction's own row of the opcode map
(spec/30_encoding.md R85), for every value of its operands. -/

namespace Sys2Proof.Laws.EncodesInItsRow

/-- The word of `i` selects the row of `i`. -/
def Statement (i : Instr) : Prop := (rowOf i).selects (encode i) = true

/-- A mask that keeps the family nibble keeps the `F` of format A. -/
theorem formatA_family (f : Nibble) (nnn : Word) : formatA f nnn &&& 0xF000 = formatA f 0 := by
  apply BitVec.eq_of_getLsbD_eq
  intro i hi
  simp only [formatA, BitVec.getLsbD_and, BitVec.getLsbD_append]
  interval_cases i <;> simp

theorem formatXB_family (f : Nibble) (x : Reg) (nn : Byte) : formatXB f x nn &&& 0xF000 = formatXB f 0 0 := by
  apply BitVec.eq_of_getLsbD_eq
  intro i hi
  simp only [formatXB, regField, BitVec.getLsbD_and, BitVec.getLsbD_append]
  interval_cases i <;> simp

theorem formatXB_lowByte (f : Nibble) (x : Reg) (nn : Byte) : formatXB f x nn &&& 0xF0FF = formatXB f 0 nn := by
  apply BitVec.eq_of_getLsbD_eq
  intro i hi
  simp only [formatXB, regField, BitVec.getLsbD_and, BitVec.getLsbD_append]
  interval_cases i <;> simp

theorem formatXY_family (f : Nibble) (x y : Reg) (n : Nibble) :
    formatXY f x y n &&& 0xF000 = formatXY f 0 0 0 := by
  apply BitVec.eq_of_getLsbD_eq
  intro i hi
  simp only [formatXY, regField, BitVec.getLsbD_and, BitVec.getLsbD_append]
  interval_cases i <;> simp

theorem formatXY_lowNibble (f : Nibble) (x y : Reg) (n : Nibble) :
    formatXY f x y n &&& 0xF00F = formatXY f 0 0 n := by
  apply BitVec.eq_of_getLsbD_eq
  intro i hi
  simp only [formatXY, regField, BitVec.getLsbD_and, BitVec.getLsbD_append]
  interval_cases i <;> simp

/-- `OpcodeRow.selects` as an equation. -/
theorem selects_of_eq {m v op : Word} (h : op &&& m = v) : OpcodeRow.selects ⟨m, v⟩ op = true := by
  simp [OpcodeRow.selects, h]

theorem cls : Statement .cls := selects_of_eq (by decide)
theorem ret : Statement .ret := selects_of_eq (by decide)
theorem jp (nnn : Word) : Statement (.jp nnn) := selects_of_eq ((formatA_family _ _).trans (by decide))
theorem call (nnn : Word) : Statement (.call nnn) := selects_of_eq ((formatA_family _ _).trans (by decide))
theorem ldIdx (nnn : Word) : Statement (.ldIdx nnn) := selects_of_eq ((formatA_family _ _).trans (by decide))
theorem jpV0 (nnn : Word) : Statement (.jpV0 nnn) := selects_of_eq ((formatA_family _ _).trans (by decide))
theorem seI (x : Reg) (nn : Byte) : Statement (.seI x nn) := selects_of_eq ((formatXB_family _ _ _).trans (by decide))
theorem sneI (x : Reg) (nn : Byte) : Statement (.sneI x nn) := selects_of_eq ((formatXB_family _ _ _).trans (by decide))
theorem ldI (x : Reg) (nn : Byte) : Statement (.ldI x nn) := selects_of_eq ((formatXB_family _ _ _).trans (by decide))
theorem addI (x : Reg) (nn : Byte) : Statement (.addI x nn) := selects_of_eq ((formatXB_family _ _ _).trans (by decide))
theorem rnd (x : Reg) (nn : Byte) : Statement (.rnd x nn) := selects_of_eq ((formatXB_family _ _ _).trans (by decide))
theorem seR (x y : Reg) (n : Nibble) : Statement (.seR x y n) := selects_of_eq ((formatXY_family _ _ _ _).trans (by decide))
theorem sneR (x y : Reg) (n : Nibble) : Statement (.sneR x y n) := selects_of_eq ((formatXY_family _ _ _ _).trans (by decide))
theorem drw (x y : Reg) (n : Nat) : Statement (.drw x y n) := selects_of_eq ((formatXY_family _ _ _ _).trans (by decide))
theorem ldR (x y : Reg) : Statement (.ldR x y) := selects_of_eq ((formatXY_lowNibble _ _ _ _).trans (by decide))
theorem or (x y : Reg) : Statement (.or x y) := selects_of_eq ((formatXY_lowNibble _ _ _ _).trans (by decide))
theorem and (x y : Reg) : Statement (.and x y) := selects_of_eq ((formatXY_lowNibble _ _ _ _).trans (by decide))
theorem xor (x y : Reg) : Statement (.xor x y) := selects_of_eq ((formatXY_lowNibble _ _ _ _).trans (by decide))
theorem addR (x y : Reg) : Statement (.addR x y) := selects_of_eq ((formatXY_lowNibble _ _ _ _).trans (by decide))
theorem sub (x y : Reg) : Statement (.sub x y) := selects_of_eq ((formatXY_lowNibble _ _ _ _).trans (by decide))
theorem shr (x y : Reg) : Statement (.shr x y) := selects_of_eq ((formatXY_lowNibble _ _ _ _).trans (by decide))
theorem subn (x y : Reg) : Statement (.subn x y) := selects_of_eq ((formatXY_lowNibble _ _ _ _).trans (by decide))
theorem shl (x y : Reg) : Statement (.shl x y) := selects_of_eq ((formatXY_lowNibble _ _ _ _).trans (by decide))
theorem skp (x : Reg) : Statement (.skp x) := selects_of_eq ((formatXB_lowByte _ _ _).trans (by decide))
theorem sknp (x : Reg) : Statement (.sknp x) := selects_of_eq ((formatXB_lowByte _ _ _).trans (by decide))
theorem ldVxDt (x : Reg) : Statement (.ldVxDt x) := selects_of_eq ((formatXB_lowByte _ _ _).trans (by decide))
theorem ldVxK (x : Reg) : Statement (.ldVxK x) := selects_of_eq ((formatXB_lowByte _ _ _).trans (by decide))
theorem ldDtVx (x : Reg) : Statement (.ldDtVx x) := selects_of_eq ((formatXB_lowByte _ _ _).trans (by decide))
theorem ldStVx (x : Reg) : Statement (.ldStVx x) := selects_of_eq ((formatXB_lowByte _ _ _).trans (by decide))
theorem addIdx (x : Reg) : Statement (.addIdx x) := selects_of_eq ((formatXB_lowByte _ _ _).trans (by decide))
theorem ldF (x : Reg) : Statement (.ldF x) := selects_of_eq ((formatXB_lowByte _ _ _).trans (by decide))
theorem ldB (x : Reg) : Statement (.ldB x) := selects_of_eq ((formatXB_lowByte _ _ _).trans (by decide))
theorem stRegs (x : Reg) : Statement (.stRegs x) := selects_of_eq ((formatXB_lowByte _ _ _).trans (by decide))
theorem ldRegs (x : Reg) : Statement (.ldRegs x) := selects_of_eq ((formatXB_lowByte _ _ _).trans (by decide))

end Sys2Proof.Laws.EncodesInItsRow
end

