-- ==== Sys2Proof/Laws/Screen.lean ====
section
/-! SUPPORT. What one pixel and one row of a sprite do to the display (spec/43_display.md R171, R173). -/

namespace Sys2Proof.Machine

/-- One pixel toggles at most its own cell. -/
theorem Canvas.cell_pixel (k : Canvas) (cx cy : Nat) (b : Bool) (r : Fin 32)
    (c : Fin 64) :
    (k.pixel cx cy b).disp.cell r c = (k.disp.cell r c ^^ (b && decide (r.val = cy ∧ c.val = cx))) := by
  unfold Canvas.pixel
  cases b with
  | false => simp
  | true =>
    simp only [if_true, Bool.true_and]
    split
    · rename_i h
      rw [Display.cell_toggle]
      by_cases hh : r.val = cy ∧ c.val = cx
      · obtain ⟨h1, h2⟩ := hh
        subst h1 h2
        simp
      · have : ¬ (r = ⟨cy, by omega⟩ ∧ c = ⟨cx, by omega⟩) := by
          rintro ⟨h1, h2⟩; apply hh; rw [h1, h2]; exact ⟨rfl, rfl⟩
        rw [if_neg this]; simp [hh]
    · rename_i h
      have : ¬ (r.val = cy ∧ c.val = cx) := by omega
      simp [this]

/-- One pixel collides when it is set and its cell was on. -/
theorem Canvas.hit_pixel (k : Canvas) (cx cy : Nat) (b : Bool) :
    (k.pixel cx cy b).hit = true ↔ k.hit = true ∨
      (b = true ∧ ∃ r : Fin 32, ∃ c : Fin 64, r.val = cy ∧ c.val = cx ∧ k.disp.cell r c = true) := by
  unfold Canvas.pixel
  cases b with
  | false => simp
  | true =>
    simp only [if_true, true_and]
    split
    · rename_i h
      simp only [Bool.or_eq_true]
      constructor
      · rintro (h1 | h1)
        · exact .inl h1
        · exact .inr ⟨_, _, rfl, rfl, h1⟩
      · rintro (h1 | ⟨r, c, rfl, rfl, h1⟩)
        · exact .inl h1
        · exact .inr h1
    · rename_i h
      constructor
      · exact .inl
      · rintro (h1 | ⟨r, c, h1, h2, _⟩)
        · exact h1
        · omega

/-- The first `m` pixels of a sprite row: the cells they toggle, and when one of them collides. `Canvas.row` is `m = 8`. -/
theorem Canvas.row_prefix (k : Canvas) (px cy : Nat) (b : Byte) (m : Nat) :
    (∀ (r : Fin 32) (c : Fin 64),
      ((List.range m).foldl (fun k c => k.pixel (px + c) cy (spriteBit b c)) k).disp.cell r c =
        (k.disp.cell r c ^^ decide (r.val = cy ∧ px ≤ c.val ∧ c.val < px + m ∧ spriteBit b (c.val - px) = true))) ∧
    (((List.range m).foldl (fun k c => k.pixel (px + c) cy (spriteBit b c)) k).hit = true ↔ k.hit = true ∨
      ∃ r : Fin 32, ∃ c : Fin 64, (r.val = cy ∧ px ≤ c.val ∧ c.val < px + m ∧ spriteBit b (c.val - px) = true) ∧ k.disp.cell r c = true) := by
  induction m with
  | zero =>
    refine ⟨fun r c => ?_, ?_⟩
    · have : ¬ (r.val = cy ∧ px ≤ c.val ∧ c.val < px + 0 ∧ spriteBit b (c.val - px) = true) := by omega
      simp only [List.range_zero, List.foldl_nil, this, decide_false, Bool.xor_false]
    · simp only [List.range_zero, List.foldl_nil]
      constructor
      · exact .inl
      · rintro (h | ⟨r, c, h, _⟩)
        · exact h
        · omega
  | succ m ih =>
    obtain ⟨ih1, ih2⟩ := ih
    rw [List.range_succ, List.foldl_append, List.foldl_cons, List.foldl_nil]
    refine ⟨fun r c => ?_, ?_⟩
    · rw [Canvas.cell_pixel, ih1 r c, Bool.xor_assoc]
      congr 1
      by_cases hc : r.val = cy ∧ c.val = px + m
      · obtain ⟨h1, h2⟩ := hc
        have e : c.val - px = m := by omega
        rw [e]
        have n1 : ¬ (r.val = cy ∧ px ≤ c.val ∧ c.val < px + m ∧ spriteBit b m = true) := by omega
        cases hb : spriteBit b m <;> simp [h1, h2]
      · have : (r.val = cy ∧ px ≤ c.val ∧ c.val < px + (m + 1) ∧ spriteBit b (c.val - px) = true) ↔ (r.val = cy ∧ px ≤ c.val ∧ c.val < px + m ∧ spriteBit b (c.val - px) = true) := by
          constructor
          · rintro ⟨a, b', c', d⟩; exact ⟨a, b', by omega, d⟩
          · rintro ⟨a, b', c', d⟩; exact ⟨a, b', by omega, d⟩
        simp only [this, hc, decide_false, Bool.and_false, Bool.xor_false]
    · rw [Canvas.hit_pixel, ih2]
      constructor
      · rintro ((h | ⟨r, c, ⟨h1, h2, h3, h4⟩, h5⟩) | ⟨hb, r, c, h1, h2, h3⟩)
        · exact .inl h
        · exact .inr ⟨r, c, ⟨h1, h2, by omega, h4⟩, h5⟩
        · rw [ih1 r c] at h3
          have : ¬ (r.val = cy ∧ px ≤ c.val ∧ c.val < px + m ∧ spriteBit b (c.val - px) = true) := by omega
          simp only [this, decide_false, Bool.xor_false] at h3
          exact .inr ⟨r, c, ⟨h1, by omega, by omega, by rw [h2, Nat.add_sub_cancel_left]; exact hb⟩, h3⟩
      · rintro (h | ⟨r, c, ⟨h1, h2, h3, h4⟩, h5⟩)
        · exact .inl (.inl h)
        · by_cases hc : c.val = px + m
          · refine .inr ⟨by rw [hc, Nat.add_sub_cancel_left] at h4; exact h4, r, c, h1, hc, ?_⟩
            rw [ih1 r c]
            have : ¬ (r.val = cy ∧ px ≤ c.val ∧ c.val < px + m ∧ spriteBit b (c.val - px) = true) := by omega
            simp only [this, decide_false, Bool.xor_false]; exact h5
          · exact .inl (.inr ⟨r, c, ⟨h1, h2, by omega, h4⟩, h5⟩)

end Sys2Proof.Machine
end

