-- ==== Sys2Proof/Tests/Slice0.lean ====
section
/-! SUPPORT. Tests: well-formedness, decoding of words written out from spec/30_encoding.md R84, single steps from the vectors of
spec/95_test_vectors.md (named in each comment), and a witness for the hypotheses of each statement. -/

namespace Sys2Proof.Tests

open Sys2Proof.Machine

/-! ### Well-formedness: each check refuses an ill-formed term (R83) -/

theorem test_wellFormed_refuses_jp_0x1000 : (Instr.jp 0x1000).wellFormed = false := by decide
theorem test_wellFormed_refuses_call_0xFFFF : (Instr.call 0xFFFF).wellFormed = false := by decide
theorem test_wellFormed_refuses_ldIdx_0x1000 : (Instr.ldIdx 0x1000).wellFormed = false := by decide
theorem test_wellFormed_refuses_jpV0_0x8000 : (Instr.jpV0 0x8000).wellFormed = false := by decide
theorem test_wellFormed_refuses_drw_16_rows : (Instr.drw 1 2 16).wellFormed = false := by decide
theorem test_wellFormed_accepts_the_ends :
    (Instr.jp 0xFFF).wellFormed = true ∧ (Instr.drw 1 2 15).wellFormed = true := by decide

/-! ### Decoding: one word for each constructor, bit by bit from the pattern of its row (R84, R85) -/

theorem test_decode_cls : decode 0b0000_0000_1110_0000 = .ok .cls := by decide
theorem test_decode_ret : decode 0b0000_0000_1110_1110 = .ok .ret := by decide
theorem test_decode_jp : decode 0b0001_1010_1011_1100 = .ok (.jp 0xABC) := by decide
theorem test_decode_call : decode 0b0010_0010_0001_0000 = .ok (.call 0x210) := by decide
theorem test_decode_seI : decode 0b0011_0001_1111_1110 = .ok (.seI 1 0xFE) := by decide
theorem test_decode_sneI : decode 0b0100_0010_0000_0011 = .ok (.sneI 2 3) := by decide
theorem test_decode_seR : decode 0b0101_0010_0011_0001 = .ok (.seR 2 3 1) := by decide
theorem test_decode_ldI : decode 0b0110_1010_0010_1011 = .ok (.ldI 0xA 0x2B) := by decide
theorem test_decode_addI : decode 0b0111_0001_0000_0010 = .ok (.addI 1 2) := by decide
theorem test_decode_ldR : decode 0b1000_0001_0010_0000 = .ok (.ldR 1 2) := by decide
theorem test_decode_or : decode 0b1000_0001_0010_0001 = .ok (.or 1 2) := by decide
theorem test_decode_and : decode 0b1000_0001_0010_0010 = .ok (.and 1 2) := by decide
theorem test_decode_xor : decode 0b1000_0001_0010_0011 = .ok (.xor 1 2) := by decide
theorem test_decode_addR : decode 0b1000_0001_0010_0100 = .ok (.addR 1 2) := by decide
theorem test_decode_sub : decode 0b1000_0001_0010_0101 = .ok (.sub 1 2) := by decide
theorem test_decode_shr : decode 0b1000_0001_0010_0110 = .ok (.shr 1 2) := by decide
theorem test_decode_subn : decode 0b1000_0001_0010_0111 = .ok (.subn 1 2) := by decide
theorem test_decode_shl : decode 0b1000_0001_0010_1110 = .ok (.shl 1 2) := by decide
theorem test_decode_sneR : decode 0b1001_0010_0011_1111 = .ok (.sneR 2 3 15) := by decide
theorem test_decode_ldIdx : decode 0b1010_0011_0000_0000 = .ok (.ldIdx 0x300) := by decide
theorem test_decode_jpV0 : decode 0b1011_0011_0000_0001 = .ok (.jpV0 0x301) := by decide
theorem test_decode_rnd : decode 0b1100_0011_0000_1111 = .ok (.rnd 3 0xF) := by decide
theorem test_decode_drw : decode 0b1101_0001_0010_0101 = .ok (.drw 1 2 5) := by decide
theorem test_decode_skp : decode 0b1110_0100_1001_1110 = .ok (.skp 4) := by decide
theorem test_decode_sknp : decode 0b1110_0100_1010_0001 = .ok (.sknp 4) := by decide
theorem test_decode_ldVxDt : decode 0b1111_0001_0000_0111 = .ok (.ldVxDt 1) := by decide
theorem test_decode_ldVxK : decode 0b1111_0010_0000_1010 = .ok (.ldVxK 2) := by decide
theorem test_decode_ldDtVx : decode 0b1111_0011_0001_0101 = .ok (.ldDtVx 3) := by decide
theorem test_decode_ldStVx : decode 0b1111_0100_0001_1000 = .ok (.ldStVx 4) := by decide
theorem test_decode_addIdx : decode 0b1111_0011_0001_1110 = .ok (.addIdx 3) := by decide
theorem test_decode_ldF : decode 0b1111_0101_0010_1001 = .ok (.ldF 5) := by decide
theorem test_decode_ldB : decode 0b1111_0110_0011_0011 = .ok (.ldB 6) := by decide
theorem test_decode_stRegs : decode 0b1111_0001_0101_0101 = .ok (.stRegs 1) := by decide
theorem test_decode_ldRegs : decode 0b1111_0010_0110_0101 = .ok (.ldRegs 2) := by decide

/-- Vectors E4 and R86: words next to a row are unknown, by family. -/
theorem test_decode_unknown : decode 0x00E1 = .error .family0 ∧ decode 0x812F = .error .family8 ∧
    decode 0xE09F = .error .familyE ∧ decode 0xF1FF = .error .familyF := by decide

/-- The numbering of the opcode table: bit 0 is the least significant bit of the word. -/
theorem test_decodeTableWord : decodeTableWord 16 0x6A2B = some (.ldI 0xA 0x2B) ∧ decodeTableWord 16 0 = none := by
  decide

/-! ### Single steps -/

/-- What `f` sees after one step that runs the word `w` at the state's `pc`. -/
def see (w : Nat) (s : State) (f : State → α) : Option α :=
  match step (s.withFetchWord 16 w) with
  | .next t => some (f t)
  | .fault _ => none
  | .refused _ => none

/-- Reset with registers set. -/
def withRegs (rs : List (Reg × Byte)) : State := rs.foldl (fun s r => s.setReg r.1 r.2) State.reset

/-- Reset with keys pressed. -/
def withKeys (ks : List (Fin 16)) : State :=
  State.reset.setKey (ks.foldl (fun v k => v.set k.val true) State.reset.key)

/-- The cells of some rows that are on, as (row, column). -/
def lit (rows : List (Fin 32)) (s : State) : List (Nat × Nat) :=
  rows.flatMap fun r => ((s.disp.get r).toList.zipIdx.filter fun c => c.1).map fun c => (r.val, c.2)

/-- Vector D1. -/
theorem test_cls_turns_a_lit_cell_off : see 0x00E0 (State.reset.setDisp (Display.blank.toggle 31 63)) (lit [0, 31]) = some [] := by decide

/-- Vector F6. -/
theorem test_ret_pops : see 0x00EE { State.reset with pc := 0x212, sp := 1, stack := State.reset.stack.set 0 0x206 }
    (fun t => (t.sp, t.pc, t.stack.get 0)) = some (0, 0x206, 0x206) := by decide

/-- Vector F7. -/
theorem test_ret_on_empty_faults : see 0x00EE (State.reset.setDt 3) (fun t => (t.status, t.sp, t.pc, t.dt)) =
    some (.faulted .stackUnderflow 0x200 0x00EE, 0, 0x202, 3) := by decide

/-- Vector S2. -/
theorem test_jp_is_not_nnn_plus_two : see 0x1ABC State.reset (fun t => t.pc) = some 0xABC := by decide

/-- Vector F3. -/
theorem test_call_pushes_the_next_address : see 0x2210 (State.reset.setPc 0x204) (fun t => (t.stack.get 0, t.sp, t.pc)) = some (0x206, 1, 0x210) := by decide

/-- Vector F5. -/
theorem test_call_on_full_faults : see 0x2300 { State.reset with sp := 16, st := 2 } (fun t => (t.status, t.sp, t.pc, t.st)) =
    some (.faulted .stackOverflow 0x200 0x2300, 16, 0x202, 2) := by decide

/-- Vector F21. -/
theorem test_seI_skips_across_the_top : see 0x3100 (State.reset.setPc 0xFFFC) (fun t => t.pc) = some 0x0000 := by decide

/-- Vector F12. -/
theorem test_seI_does_not_skip : see 0x3100 (withRegs [(1, 1)]) (fun t => t.pc) = some 0x202 := by decide

/-- Vector F14. -/
theorem test_sneI_skips : see 0x4100 (withRegs [(1, 1)]) (fun t => t.pc) = some 0x204 := by decide

/-- Vector F17. -/
theorem test_seR_ignores_the_low_nibble : see 0x5231 (withRegs [(2, 7), (3, 7)]) (fun t => (t.pc, t.reports)) = some (0x204, []) := by decide

/-- Vector F16. -/
theorem test_seR_does_not_skip : see 0x5230 (withRegs [(2, 7), (3, 8)]) (fun t => t.pc) = some 0x202 := by decide

/-- Vector A1. -/
theorem test_ldI : see 0x6A2B State.reset (fun t => t.reg 0xA) = some 0x2B := by decide

/-- Vector A3. -/
theorem test_addI_wraps_without_a_flag : see 0x7102 (withRegs [(1, 0xFF), (15, 0x5A)]) (fun t => (t.reg 1, t.reg 15)) = some (1, 0x5A) := by decide

/-- Vector A5. -/
theorem test_ldR : see 0x8120 (withRegs [(2, 0x33)]) (fun t => (t.reg 1, t.reg 2)) = some (0x33, 0x33) := by decide

/-- Vector A6. -/
theorem test_or_leaves_vf : see 0x8121 (withRegs [(1, 0xF0), (2, 0x0F), (15, 0x5A)]) (fun t => (t.reg 1, t.reg 15)) = some (0xFF, 0x5A) := by decide

/-- Vector A7. -/
theorem test_and_leaves_vf : see 0x8122 (withRegs [(1, 0xF3), (2, 0x3F), (15, 0x5A)]) (fun t => (t.reg 1, t.reg 15)) = some (0x33, 0x5A) := by decide

/-- Vector A8. -/
theorem test_xor_leaves_vf : see 0x8123 (withRegs [(1, 0xFF), (2, 0x0F), (15, 0x5A)]) (fun t => (t.reg 1, t.reg 15)) = some (0xF0, 0x5A) := by decide

/-- Vector S3. -/
theorem test_addR_carries : see 0x8124 (withRegs [(1, 0xFF), (2, 1)]) (fun t => (t.reg 1, t.reg 15)) = some (0, 1) := by decide

/-- Vector A12. -/
theorem test_addR_into_vf_keeps_the_carry : see 0x8F14 (withRegs [(15, 0xFF), (1, 1)]) (fun t => t.reg 15) = some 1 := by decide

/-- Vector S4. -/
theorem test_sub_borrows : see 0x8125 (withRegs [(1, 5), (2, 10)]) (fun t => (t.reg 1, t.reg 15)) = some (0xFB, 0) := by decide

/-- Vector A16. -/
theorem test_sub_of_equals_clears_the_flag : see 0x8125 (withRegs [(1, 7), (2, 7), (15, 1)]) (fun t => (t.reg 1, t.reg 15)) = some (0, 0) := by decide

/-- Vector A19. -/
theorem test_shr_ignores_y : see 0x8126 (withRegs [(1, 4), (2, 0xFF), (15, 1)]) (fun t => (t.reg 1, t.reg 2, t.reg 15)) = some (2, 0xFF, 0) := by decide

/-- Vector A20. -/
theorem test_shr_of_vf_keeps_the_result : see 0x8F06 (withRegs [(15, 6)]) (fun t => t.reg 15) = some 3 := by decide

/-- Vector A21. -/
theorem test_subn_subtracts_the_other_way : see 0x8127 (withRegs [(1, 5), (2, 10)]) (fun t => (t.reg 1, t.reg 15)) = some (5, 1) := by decide

/-- Vector A25. -/
theorem test_shl_moves_the_high_bit_out : see 0x810E (withRegs [(1, 0x81)]) (fun t => (t.reg 1, t.reg 15)) = some (2, 1) := by decide

/-- Vector F19. -/
theorem test_sneR_ignores_the_low_nibble : see 0x923F (withRegs [(2, 7), (3, 8)]) (fun t => (t.pc, t.reports)) = some (0x204, []) := by decide

/-- Vector M2. -/
theorem test_ldIdx : see 0xAFFF State.reset (fun t => t.I) = some 0xFFF := by decide

/-- Vector F10. -/
theorem test_jpV0_goes_past_the_address_space : see 0xBFFF (withRegs [(0, 0xFF)]) (fun t => t.pc) = some 0x10FE := by decide

/-- Vector A28. -/
theorem test_rnd_masks_the_supplied_byte : see 0xC30F (State.reset.supplyRandom [0xA7, 0x11]) (fun t => (t.reg 3, t.rndIn)) = some (7, [0x11]) := by decide

/-- Vector A29. -/
theorem test_rnd_of_nothing_still_draws : see 0xC300 (State.reset.supplyRandom [0xA7]) (fun t => (t.reg 3, t.rndIn, t.rndDrawn)) = some (0, [], 1) := by decide

/-- Vector D3. -/
theorem test_drw_clips_at_the_corner : see 0xD125 ((withRegs [(1, 62), (2, 30)]).setI 0x050) (fun t => (lit [0, 1, 29, 30, 31] t, t.reg 15)) =
    some ([(30, 62), (30, 63), (31, 62)], 0) := by decide

/-- Vector D7. -/
theorem test_drw_collides : see 0xD001 ((State.reset.setI 0x051).setDisp ((Display.blank.toggle 0 0).toggle 0 1))
    (fun t => (lit [0, 1] t, t.reg 15)) = some ([(0, 1), (0, 3)], 1) := by decide

/-- Vector K5. -/
theorem test_skp_uses_the_low_nibble : see 0xE49E ((withKeys [10]).setReg 4 0x1A) (fun t => t.pc) = some 0x204 := by decide

/-- Vector K3. -/
theorem test_sknp_of_a_pressed_key : see 0xE4A1 ((withKeys [10]).setReg 4 0x0A) (fun t => t.pc) = some 0x202 := by decide

/-- Vector K10. -/
theorem test_ldVxDt_reads_before_the_decay : see 0xF107 (State.reset.setDt 2) (fun t => (t.reg 1, t.dt)) = some (2, 1) := by decide

/-- Vector K7. -/
theorem test_ldVxK_takes_the_lowest : see 0xF20A ((withKeys [9, 3]).setPc 0x206) (fun t => (t.reg 2, t.pc)) = some (3, 0x208) := by decide

/-- Vector K9. -/
theorem test_ldVxK_rewinds_across_zero : see 0xF20A ((State.reset.setPc 0xFFFF).setDt 2) (fun t => (t.pc, t.dt)) = some (0xFFFF, 1) := by decide

/-- Vector K15. -/
theorem test_ldDtVx_is_decayed : see 0xF015 (withRegs [(0, 0xFF)]) (fun t => t.dt) = some 254 := by decide

/-- Vector K17. -/
theorem test_ldStVx_of_one_is_never_heard : see 0xF018 (withRegs [(0, 1)]) (fun t => (t.st, t.soundOn)) = some (0, false) := by decide

/-- Vector M3. -/
theorem test_addIdx_passes_0xFFF : see 0xF31E ((withRegs [(3, 5)]).setI 0x0FFE) (fun t => (t.I, t.reg 15)) = some (0x1003, 0) := by decide

/-- Vector M9. -/
theorem test_ldF_has_no_mask : see 0xF029 (withRegs [(0, 0xFF)]) (fun t => t.I) = some 0x054B := by decide

/-- Vector M11. -/
theorem test_ldB_wraps : see 0xF033 ((withRegs [(0, 123)]).setI 0x0FFF) (fun t => (t.mem.read 0xFFF, t.mem.read 0, t.mem.read 1)) =
    some (1, 2, 3) := by decide

/-- Vector M13. -/
theorem test_stRegs_wraps : see 0xF355 ((withRegs [(0, 0x11), (1, 0x22), (2, 0x33), (3, 0x44)]).setI 0x0FFE)
    (fun t => ([0xFFE, 0xFFF, 0, 1].map t.mem.read, t.I)) = some ([0x11, 0x22, 0x33, 0x44], 0x0FFE) := by decide

/-- Vector M12. -/
theorem test_stRegs_of_zero_stores_one : see 0xF055 ((withRegs [(0, 0xAB), (1, 0xCD)]).setI 0x0300) (fun t => (t.mem.read 0x300, t.mem.read 0x301)) =
    some (0xAB, 0) := by decide

/-- Vector M16. -/
theorem test_ldRegs_reads_the_font : see 0xF465 (State.reset.setI 0x0050) (fun t => ([0, 1, 2, 3, 4].map t.reg, t.I)) =
    some ([0xF0, 0x90, 0x90, 0x90, 0xF0], 0x0050) := by decide

/-- Vectors S11 and K18. -/
theorem test_unknown_word_is_reported : see 0x0000 ((State.reset.setDt 3).setSt 1) (fun t => (t.pc, t.reports, t.dt, t.st)) =
    some (0x202, [⟨0x200, 0⟩], 2, 0) := by decide

/-- Vector E2. -/
theorem test_fetch_wraps_and_pc_does_not : see 0x6A2B (State.reset.setPc 0x0FFF) (fun t => (t.reg 0xA, t.pc, t.mem.read 0)) = some (0x2B, 0x1001, 0x2B) := by decide

/-- R101, R55, R36, R33: the fetch at 0x1050 reads the first bytes of glyph 0 (notes/assumptions/26.md). -/
theorem test_fetch_wraps_into_the_font : (State.reset.setPc 0x1050).fetchWord = 0xF090 ∧
    (State.reset.setPc 0x104E).fetchWord = 0x0000 := by decide

/-- Vector D9. -/
theorem test_drw_reads_past_the_end : see 0xD012 ((State.reset.setI 0x0FFF).setMem ((State.reset.mem.write 0xFFF 0x80).write 0 1)) (lit [0, 1, 2]) =
    some [(0, 0), (1, 7)] := by decide

/-! ### A witness for the hypotheses of each statement that has some, and for each clause at the ends of its range -/

/-- Reset with the word `w` at `pc`. -/
def holding (w : Nat) : State := State.reset.withFetchWord 16 w

/-- A machine that has faulted: a return from an empty stack, after its step. -/
def dead : State := { State.reset with pc := 0x202, status := .faulted .stackUnderflow 0x200 0x00EE }

theorem reset_inv : State.reset.Inv := ⟨by decide, by decide⟩

theorem witness_ResetLeavesTheTableOfValues :
    [0x000, 0x04F, 0x050, 0x051, 0x09F, 0x0A0, 0xFFF].map State.reset.mem.read =
      [0x00, 0x00, 0xF0, 0x90, 0x80, 0x00, 0x00] := by decide

theorem witness_EveryStepKeepsTheInvariant : ∃ s t : State, s.Inv ∧ step s = .next t :=
  ⟨State.reset, _, reset_inv, rfl⟩

theorem witness_outcome_completed : ∃ t, step (holding 0x6A2B) = .next t ∧ t.status = .running := ⟨_, rfl, rfl⟩

theorem witness_outcome_faulted : ∃ t, step (holding 0x00EE) = .next t ∧ t.status ≠ .running :=
  ⟨_, rfl, by decide⟩

theorem witness_outcome_idle : dead.Inv ∧ dead.status ≠ .running ∧ step dead = .next dead :=
  ⟨⟨by decide, by decide⟩, by decide, rfl⟩

theorem witness_StepRunsTheDecodedInstruction_completes : ∃ (s : State) (i : Instr) (t : State),
    s.status = .running ∧ i.wellFormed = true ∧
    decode (wordOfBytes (s.mem.read s.pc.toNat) (s.mem.read (s.pc.toNat + 1))) = .ok i ∧
    exec i { s with pc := s.pc + 2 } = .next t ∧ t.status = .running :=
  ⟨holding 0x6A2B, .ldI 0xA 0x2B, _, by decide, by decide, by decide, rfl, rfl⟩

theorem witness_StepRunsTheDecodedInstruction_faults : ∃ (s : State) (t : State) (c : Cause) (a w : Word),
    s.status = .running ∧ Instr.ret.wellFormed = true ∧
    decode (wordOfBytes (s.mem.read s.pc.toNat) (s.mem.read (s.pc.toNat + 1))) = .ok .ret ∧
    exec .ret { s with pc := s.pc + 2 } = .next t ∧ t.status = .faulted c a w :=
  ⟨holding 0x00EE, _, _, _, _, by decide, by decide, by decide, rfl, rfl⟩

theorem witness_StepRunsTheDecodedInstruction_stops : ∃ (s : State) (r : Fault),
    s.status = .running ∧ Instr.ret.wellFormed = true ∧
    decode (wordOfBytes (s.mem.read s.pc.toNat) (s.mem.read (s.pc.toNat + 1))) = .ok .ret ∧
    exec .ret { s with pc := s.pc + 2 } = .fault r :=
  ⟨{ holding 0x00EE with sp := 17 }, _, by decide, by decide, by decide, rfl⟩

theorem witness_UnknownWordIsReportedAndSkipped :
    State.reset.status = .running ∧ decode State.reset.fetchWord = .error .family0 := by decide

theorem witness_TimersDecayOncePerCompletedStep_written : ∃ t, step (holding 0xF015) = .next t ∧
    (holding 0xF015).status = .running ∧ t.status = .running ∧
    decode (holding 0xF015).fetchWord = .ok (.ldDtVx 0) := ⟨_, rfl, rfl, rfl, by decide⟩

theorem witness_TimersDecayOncePerCompletedStep_sound : ∃ t, step (holding 0xF018) = .next t ∧
    (holding 0xF018).status = .running ∧ t.status = .running ∧
    decode (holding 0xF018).fetchWord = .ok (.ldStVx 0) := ⟨_, rfl, rfl, rfl, by decide⟩

theorem witness_TimersDecayOncePerCompletedStep_unwritten : ∃ t, step State.reset = .next t ∧
    State.reset.status = .running ∧ t.status = .running ∧
    (∀ x, decode State.reset.fetchWord ≠ .ok (.ldDtVx x)) ∧ ∀ x, decode State.reset.fetchWord ≠ .ok (.ldStVx x) :=
  ⟨_, rfl, rfl, rfl, by decide, by decide⟩

theorem witness_TimersDecayOncePerCompletedStep_faulted :
    ∃ t, step (holding 0x00EE) = .next t ∧ t.status ≠ .running := ⟨_, rfl, by decide⟩

theorem witness_TimerAccessComesBeforeTheDecay :
    (holding 0xF107).status = .running ∧ decode (holding 0xF107).fetchWord = .ok (.ldVxDt 1) ∧
    decode (holding 0xF115).fetchWord = .ok (.ldDtVx 1) ∧
    decode (holding 0xF118).fetchWord = .ok (.ldStVx 1) := by decide

theorem witness_StackFaultEntryIsPrecise_overflow : ∃ s : State, s.status = .running ∧ s.sp = 16 ∧
    decode s.fetchWord = .ok (.call 0x300) :=
  ⟨{ holding 0x2300 with sp := 16 }, by decide, by decide, by decide⟩

theorem witness_StackFaultEntryIsPrecise_underflow :
    (holding 0x00EE).status = .running ∧ (holding 0x00EE).sp = 0 ∧
    decode (holding 0x00EE).fetchWord = .ok .ret := by decide

theorem witness_OnlyCallAndReturnFault : ∃ t c a w, (holding 0x00EE).status = .running ∧
    step (holding 0x00EE) = .next t ∧ t.status = .faulted c a w := ⟨_, _, _, _, rfl, rfl, rfl⟩

theorem witness_FaultedMachineStaysAsItIs : dead.status ≠ .running := by decide

theorem witness_IllegalStackPointerStopsByName : 16 < ({ State.reset with sp := 17 } : State).sp.toNat := by decide

theorem witness_ExecuteWritesOnlyWhatIsListed :
    ∃ t, exec (.ldI 1 2) State.reset = .next t ∧ Element.memory ∉ writes (.ldI 1 2) := ⟨_, rfl, by decide⟩

theorem witness_ReportsGrowAndAreNeverRead : ∃ t, step State.reset = .next t ∧ t.reports.length = 1 :=
  ⟨_, rfl, by decide⟩

theorem witness_SoundTimerIsNeverRead : ∃ t, exec (.ldStVx 1) State.reset = .next t := ⟨_, rfl⟩

theorem witness_DecodeInvertsEncode : (Instr.jp 0xFFF).wellFormed = true ∧ (Instr.drw 15 15 15).wellFormed = true := by
  decide

theorem witness_EncodeInvertsDecode : decode 0x523F = .ok (.seR 2 3 15) := by decide

theorem witness_JumpsSetThePc : (Instr.jpV0 0xFFF).wellFormed = true := by decide

theorem witness_CallPushesOrOverflows : (Instr.call 0xFFF).wellFormed = true ∧
    ({ State.reset with sp := 15 } : State).sp.toNat < 16 ∧ ({ State.reset with sp := 16 } : State).sp = 16 := by
  decide

theorem witness_ReturnPopsOrUnderflows :
    (∀ sp ∈ ([1, 16] : List Byte), 0 < ({ State.reset with sp := sp } : State).sp.toNat ∧
      ({ State.reset with sp := sp } : State).sp.toNat ≤ 16) ∧ State.reset.sp = 0 := by decide

theorem witness_ReturnAfterCallResumesAfterTheCall : ({ State.reset with sp := 15 } : State).sp.toNat < 16 := by
  decide

/-- The two clauses of the flag statements: `x = 15` and `x` another register. -/
theorem witness_flag_clauses : (15 : Reg) = vf ∧ (14 : Reg) ≠ 15 ∧ (0 : Reg) ≠ 14 := by decide

theorem witness_RandomLoadMasksOneConsumedByte : (State.reset.supplyRandom [0xA7]).rndIn = 0xA7 :: [] := by decide

theorem witness_DrawIsExclusiveOrWithCollision_collides : ∃ s : State, ∃ r c,
    s.spritePixel 0 0 1 r c = true ∧ s.disp.cell r c = true :=
  ⟨(State.reset.setI 0x050).setDisp (Display.blank.toggle 0 3), 0, 3, by decide, by decide⟩

theorem witness_DrawIsExclusiveOrWithCollision_misses :
    ¬∃ r c, State.reset.spritePixel 0 0 0 r c = true ∧ State.reset.disp.cell r c = true := by
  rintro ⟨r, c, -, h⟩
  simp [State.reset] at h

theorem witness_DrawingTwiceRestoresTheDisplay : (1 : Reg) ≠ 15 ∧ (14 : Reg) ≠ 15 ∧
    (State.reset.setI 0x050).spritePixel 1 14 1 0 3 = true ∧
    (State.reset.setI 0x050).disp.cell 0 3 = false := by decide

theorem witness_KeySkipsTestTheNamedKey : ((withKeys [15]).setReg 1 0xFF |>.reg 1).toNat % 16 = (15 : Fin 16).val := by
  decide

theorem witness_KeyWaitTakesTheLowestKeyOrRewinds :
    ((withKeys [15]).key.get 15 = true ∧ ∀ j : Fin 16, j < 15 → (withKeys [15]).key.get j = false) ∧
    ((withKeys [0, 9]).key.get 0 = true ∧ ∀ j : Fin 16, j < 0 → (withKeys [0, 9]).key.get j = false) ∧
    ∀ k : Fin 16, State.reset.key.get k = false := by decide

theorem witness_WaitingForAKeyRunsOnlyTheTimers : (holding 0xF20A).status = .running ∧
    decode (holding 0xF20A).fetchWord = .ok (.ldVxK 2) ∧ ∀ k : Fin 16, (holding 0xF20A).key.get k = false := by
  decide

theorem witness_IdleLoopChangesOnlyTheTimers : (holding 0x1200).status = .running ∧
    decode (holding 0x1200).fetchWord = .ok (.jp (holding 0x1200).pc) := by decide

/-- Program P5: the store lies right before the word it overwrites; also at the end of memory. -/
theorem witness_StoredBytesAreTheNextWordFetched :
    ∀ s ∈ [(holding 0xF155).setI 0x202, ((State.reset.setPc 0x0FFD).withFetchWord 16 0xF155).setI 0xFFFF],
      s.status = .running ∧ decode s.fetchWord = .ok (.stRegs 1) ∧ (1 : Reg) ≤ 1 ∧
      s.I.toNat % 4096 = (s.pc + 2).toNat % 4096 := by decide

theorem witness_LoadCopiesTheImageVerbatim : Session.start.phase = .fresh ∧
    (List.replicate 3584 (0xFF : Byte)).length ≤ 3584 ∧ ([] : List Byte).length ≤ 3584 := by
  refine ⟨rfl, (List.length_replicate ..).le, Nat.zero_le _⟩

theorem witness_LoadOutsideItsContractChangesNothing : Session.start.phase = .fresh ∧
    3584 < (List.replicate 3585 (0xFF : Byte)).length ∧ (List.replicate 3584 (0xFF : Byte)).length ≤ 3584 :=
  ⟨rfl, (Nat.lt_succ_self 3584).trans_eq (List.length_replicate ..).symm, (List.length_replicate ..).le⟩

/-- A step before any load, a step after a load, and a step after a step. -/
theorem witness_LoadOutsideItsContractChangesNothing_step :
    ∀ h ∈ [Session.start, (Session.start.load [0x12, 0x00]).2, ⟨State.reset, .stepped⟩], ∃ g, h.step = .next g := by
  simp only [List.forall_mem_cons, List.not_mem_nil, false_imp_iff, implies_true, and_true]
  exact ⟨⟨_, rfl⟩, ⟨_, rfl⟩, _, rfl⟩

theorem witness_LoadOutsideItsContractChangesNothing_refused :
    ((Session.start.load [0x12, 0x00]).2.load []).1 = .refused ∧
    (Session.load ⟨State.reset, .stepped⟩ []).1 = .refused := by decide

theorem witness_FirstFetchReadsTheImage : LoadedOnce [0x12, 0x00] (State.reset.copyImage [0x12, 0x00]) ∧
    LoadedOnce [0x12] (State.reset.copyImage [0x12]) ∧ LoadedOnce [] (State.reset.copyImage []) :=
  ⟨⟨by decide, rfl⟩, ⟨by decide, rfl⟩, by decide, rfl⟩

end Sys2Proof.Tests
end

section
/-! SUPPORT. The host's load of an image (40_cycle.md R110): when it succeeds, and what memory reads afterwards. -/

namespace Sys2Proof.Machine

@[simp] theorem State.copyImage_mem (s : State) (image : List Byte) :
    (s.copyImage image).mem = s.mem.writeBytes 0x200 image := rfl

/-- An image that fits below 4096 keeps clear of the wrap, so byte `k` is written once and stands at `0x200 + k`. -/
theorem State.read_copyImage_inside (s : State) {image : List Byte} (hl : image.length ≤ 3584) {k : Nat}
    (hk : k < image.length) : (s.copyImage image).mem.read (0x200 + k) = image[k] :=
  Memory.read_writeBytes_inside s.mem 0x200 k image (by omega) hk

/-- No byte of a fitting image is written to an address below 0x200 or from the image's end up to 4095. -/
theorem State.read_copyImage_outside (s : State) {image : List Byte} (hl : image.length ≤ 3584) {a : Nat}
    (ha : a < 4096) (hout : a < 0x200 ∨ 0x200 + image.length ≤ a) :
    (s.copyImage image).mem.read a = s.mem.read a := by
  rw [State.copyImage_mem, Memory.read_writeBytes_outside]
  intro k hk
  rw [ne_eq, Memory.wrapAddr_eq_iff]
  omega

/-- A fresh machine accepts every image that fits. -/
theorem Session.load_fitting {h : Session} {image : List Byte} (hf : h.phase = .fresh)
    (hl : image.length ≤ 3584) : h.load image = (.done, ⟨h.core.copyImage image, .loaded⟩) := by
  simp [Session.load, hf, hl]

/-- Settles O49: the accepted load is `State.copyImage`, whose reads inside and outside the image are known. -/
theorem loadCopiesTheImageVerbatim : Obligations.LoadCopiesTheImageVerbatim := by
  intro h image hf hl
  refine ⟨_, Session.load_fitting hf hl, rfl, ?inside, ?outside⟩
  case inside => exact fun k hk => h.core.read_copyImage_inside hl hk
  case outside => exact fun a ha hout => h.core.read_copyImage_outside hl ha hout

end Sys2Proof.Machine
end

section
/-! SUPPORT. Control transfer: the jumps (41_flow.md R121, R123) and the compare-and-skip instructions (R124 to R127). -/

namespace Sys2Proof.Machine

/-! ### The arms of `exec` -/

theorem exec_jp (nnn : Word) (s : State) : exec (.jp nnn) s = .next (s.setPc nnn) := rfl

theorem exec_jpV0 (nnn : Word) (s : State) :
    exec (.jpV0 nnn) s = .next (s.setPc (addByte nnn (s.reg 0))) := rfl

theorem exec_seI (x : Reg) (nn : Byte) (s : State) :
    exec (.seI x nn) s = .next (s.skipIf (decide (s.reg x = nn))) := rfl

theorem exec_sneI (x : Reg) (nn : Byte) (s : State) :
    exec (.sneI x nn) s = .next (s.skipIf (decide (s.reg x ≠ nn))) := by
  simp only [ne_eq, decide_not]; rfl

theorem exec_seR (x y : Reg) (n : Nibble) (s : State) :
    exec (.seR x y n) s = .next (s.skipIf (decide (s.reg x = s.reg y))) := rfl

theorem exec_sneR (x y : Reg) (n : Nibble) (s : State) :
    exec (.sneR x y n) s = .next (s.skipIf (decide (s.reg x ≠ s.reg y))) := by
  simp only [ne_eq, decide_not]; rfl

/-! ### The sum of JP V0 -/

/-- A byte added to an address below 4096 stays far below 65536 (90_conflicts.md C13). -/
theorem addByte_toNat_of_fitsNNN {nnn : Word} (h : fitsNNN nnn = true) (v : Byte) :
    (addByte nnn v).toNat = nnn.toNat + v.toNat := by
  have hn : nnn.toNat < 4096 := of_decide_eq_true h
  rw [addByte_toNat, Nat.mod_eq_of_lt (by omega)]

/-! ### What a skip does -/

/-- A skip leaves everything but `pc`. -/
theorem State.skipIf_frame (s : State) (c : Bool) : s.skipIf c = { s with pc := (s.skipIf c).pc } := by
  rw [State.skipIf_eq]; rfl

/-- Where `pc` stands after a skip, as a number: the addition wraps at 16 bits (decision D20). -/
theorem State.skipIf_pc_toNat (s : State) (c : Bool) :
    (s.skipIf c).pc.toNat = if c = true then (s.pc.toNat + 2) % 65536 else s.pc.toNat := by
  cases c <;> simp [State.skipIf_eq, BitVec.toNat_add]

/-- An instruction that ends in a skip on `c` meets the clause of compare-and-skip for `c`. -/
theorem exec_skips {i : Instr} {s : State} {c : Bool} (h : exec i s = .next (s.skipIf c)) :
    ∃ t, exec i s = .next t ∧ t = { s with pc := t.pc } ∧
      t.pc.toNat = if c = true then (s.pc.toNat + 2) % 65536 else s.pc.toNat :=
  ⟨s.skipIf c, h, s.skipIf_frame c, s.skipIf_pc_toNat c⟩

/-! ### The obligations -/

/-- Settles O23: both jumps are `State.setPc`, JP V0 of a sum that `addByte_toNat` reads as a number. -/
theorem jumpsSetThePc : Obligations.JumpsSetThePc := by
  intro nnn s
  refine ⟨exec_jp nnn s, _, exec_jpV0 nnn s, rfl, ?wrapped, ?plain⟩
  case wrapped => exact addByte_toNat nnn (s.reg 0)
  case plain => exact fun hw => addByte_toNat_of_fitsNNN hw (s.reg 0)

/-- Settles O24: each of the four is `State.skipIf` on its own condition, and a skip chooses only `pc`. -/
theorem compareAndSkip : Obligations.CompareAndSkip := by
  intro x y nn n s
  simp only [List.forall_mem_cons, List.not_mem_nil, false_imp_iff, implies_true, and_true]
  exact ⟨exec_skips (exec_seI x nn s), exec_skips (exec_sneI x nn s),
    exec_skips (exec_seR x y n s), exec_skips (exec_sneR x y n s)⟩

end Sys2Proof.Machine
end

section
/-! SUPPORT. Register loads and the ALU: the instructions that write one register and no flag (42_alu.md R140 to R145;
44_keypad_timers.md R188), and the random load (42_alu.md R151). -/

namespace Sys2Proof.Machine

/-! ### The arms of `exec` -/

theorem exec_ldI (x : Reg) (nn : Byte) (s : State) : exec (.ldI x nn) s = .next (s.setReg x nn) := rfl

theorem exec_ldR (x y : Reg) (s : State) : exec (.ldR x y) s = .next (s.setReg x (s.reg y)) := rfl

theorem exec_ldVxDt (x : Reg) (s : State) : exec (.ldVxDt x) s = .next (s.setReg x s.dt) := rfl

theorem exec_addI (x : Reg) (nn : Byte) (s : State) :
    exec (.addI x nn) s = .next (s.setReg x (s.reg x + nn)) := rfl

theorem exec_or (x y : Reg) (s : State) :
    exec (.or x y) s = .next (s.setReg x (s.reg x ||| s.reg y)) := rfl

theorem exec_and (x y : Reg) (s : State) :
    exec (.and x y) s = .next (s.setReg x (s.reg x &&& s.reg y)) := rfl

theorem exec_xor (x y : Reg) (s : State) :
    exec (.xor x y) s = .next (s.setReg x (s.reg x ^^^ s.reg y)) := rfl

theorem exec_rnd (x : Reg) (nn : Byte) (s : State) :
    exec (.rnd x nn) s = .next (s.afterDraw.setReg x (s.rndNext &&& nn)) := rfl

/-! ### Instructions that write one register -/

/-- A register write leaves every element but the register file. -/
theorem State.setReg_frame (s : State) (r : Reg) (v : Byte) :
    s.setReg r v = { s with x := (s.setReg r v).x } := rfl

/-- An instruction that ends in one register write meets the clause of the register loads. -/
theorem exec_loads {i : Instr} {s : State} {x : Reg} {v : Byte} (h : exec i s = .next (s.setReg x v)) :
    ∃ t, exec i s = .next t ∧ t = { s with x := t.x } ∧ ∀ q, t.reg q = if q = x then v else s.reg q :=
  ⟨_, h, s.setReg_frame x v, fun q => s.reg_setReg x q v⟩

/-- An instruction that ends in writing to `x[X]` a value computed bit by bit from `x[X]` and `x[Y]` meets the clause
of the logic instructions for that function of two bits. -/
theorem exec_bitwise {i : Instr} {s : State} {x y : Reg} {v : Byte} (f : Bool → Bool → Bool)
    (h : exec i s = .next (s.setReg x v))
    (hv : ∀ k, v.getLsbD k = f ((s.reg x).getLsbD k) ((s.reg y).getLsbD k)) :
    ∃ t, exec i s = .next t ∧ t = { s with x := t.x } ∧ (∀ q, q ≠ x → t.reg q = s.reg q) ∧
      ∀ k, (t.reg x).getLsbD k = f ((s.reg x).getLsbD k) ((s.reg y).getLsbD k) := by
  refine ⟨_, h, s.setReg_frame x v, fun q hq => s.reg_setReg_ne hq v, fun k => ?_⟩
  rw [State.reg_setReg_self, hv]

/-! ### The random input (10_state.md R32) -/

/-- Where the host has supplied bytes, the next byte consumed is the first of them. -/
theorem State.rndNext_of_supplied {s : State} {b : Byte} {rest : List Byte} (h : s.rndIn = b :: rest) :
    s.rndNext = b := by
  simp [State.rndNext, h]

/-- Consuming a byte changes the random input alone, and drops at most one supplied byte. -/
theorem State.afterDraw_eq (s : State) :
    s.afterDraw = { s with rndIn := s.rndIn.drop 1, rndDrawn := s.rndDrawn + 1 } := by
  rw [List.drop_one]; rfl

/-! ### The obligations -/

/-- Settles O28: each of the three is one register write. -/
theorem registerLoadsWriteOneRegister : Obligations.RegisterLoadsWriteOneRegister := by
  intro x y nn s
  simp only [List.forall_mem_cons, List.not_mem_nil, false_imp_iff, implies_true, and_true]
  exact ⟨exec_loads (exec_ldI x nn s), exec_loads (exec_ldR x y s), exec_loads (exec_ldVxDt x s)⟩

/-- Settles O29: one register write, of a sum of two bytes; no other register is written, `x[15]` among them. -/
theorem addImmediateWrapsAndSetsNoFlag : Obligations.AddImmediateWrapsAndSetsNoFlag := by
  intro x nn s
  refine ⟨_, exec_addI x nn s, s.setReg_frame x _, ?sum, ?others⟩
  case sum => rw [State.reg_setReg_self, BitVec.toNat_add]
  case others => exact fun q hq => s.reg_setReg_ne hq _

/-- Settles O30: each of the three is one register write, of a byte the library describes bit by bit. -/
theorem logicIsBitwiseAndSetsNoFlag : Obligations.LogicIsBitwiseAndSetsNoFlag := by
  intro x y s
  refine ⟨?or, ?and, ?xor⟩
  case or => exact exec_bitwise Bool.or (exec_or x y s) fun k => BitVec.getLsbD_or
  case and => exact exec_bitwise Bool.and (exec_and x y s) fun k => BitVec.getLsbD_and
  case xor => exact exec_bitwise Bool.xor (exec_xor x y s) fun k => BitVec.getLsbD_xor

/-- Settles O34: the byte consumed is `State.rndNext`, and the register write comes after the draw. -/
theorem randomLoadMasksOneConsumedByte : Obligations.RandomLoadMasksOneConsumedByte := by
  intro x nn s
  refine ⟨s.rndNext, _, exec_rnd x nn s, ?frame, ?regs, ?supplied⟩
  case frame => rw [State.setReg_frame, State.afterDraw_eq]
  case regs => exact fun q => s.afterDraw.reg_setReg x q _
  case supplied => exact fun b rest h => State.rndNext_of_supplied h

end Sys2Proof.Machine
end

section
/-! SUPPORT. Display: the clear (43_display.md R170). -/

namespace Sys2Proof.Machine

/-! ### The arms of `exec` -/

theorem exec_cls (s : State) : exec .cls s = .next (s.setDisp Display.blank) := rfl

/-! ### Instructions that write the display -/

/-- A display write leaves every element but the display. -/
theorem State.setDisp_frame (s : State) (d : Display) : s.setDisp d = { s with disp := (s.setDisp d).disp } := rfl

/-! ### The obligations -/

/-- Settles O35: the clear writes `Display.blank`, whose cells `Display.cell_blank` reads as off. -/
theorem clearTurnsEveryCellOff : Obligations.ClearTurnsEveryCellOff := by
  intro s
  refine ⟨_, exec_cls s, s.setDisp_frame Display.blank, ?off⟩
  case off =>
    intro r c
    rw [State.setDisp_disp, Display.cell_blank]

end Sys2Proof.Machine
end

section
/-! SUPPORT. Keypad: the wait for a key (44_keypad_timers.md R187). -/

namespace Sys2Proof.Machine

/-! ### The arm of `exec` -/

theorem exec_ldVxK_of_key (x : Reg) {s : State} {k : Fin 16} (h : lowestKey s.key = some k) :
    exec (.ldVxK x) s = .next (s.setReg x (BitVec.ofNat 8 k.val)) := by
  simp only [exec, execLdVxK, h]

theorem exec_ldVxK_of_noKey (x : Reg) {s : State} (h : lowestKey s.key = none) :
    exec (.ldVxK x) s = .next (s.setPc (s.pc - 2)) := by
  simp only [exec, execLdVxK, h]

/-! ### What the two outcomes write -/

/-- A key's code is a value 0 to 15, so it fits a register. -/
theorem keyCode_toNat (k : Fin 16) : (BitVec.ofNat 8 k.val).toNat = k.val := by
  rw [BitVec.toNat_ofNat, Nat.mod_eq_of_lt (k.isLt.trans (by decide))]

/-- The next advance brings a rewound `pc` back, also across 0 (decision D20). -/
theorem rewind_toNat (pc : Word) : ((pc - 2).toNat + 2) % 65536 = pc.toNat := by
  have hback : (pc - 2 + 2).toNat = pc.toNat := congrArg BitVec.toNat (BitVec.sub_add_cancel pc 2)
  rwa [BitVec.toNat_add] at hback

/-! ### The obligations -/

/-- Settles O39: what Fx0A does is decided by `lowestKey`, which the clauses' two premises fix as `some k` and `none`. -/
theorem keyWaitTakesTheLowestKeyOrRewinds : Obligations.KeyWaitTakesTheLowestKeyOrRewinds := by
  intro x s
  cases hkey : lowestKey s.key with
  | some j =>
    refine ⟨_, exec_ldVxK_of_key x hkey, fun k hk hlow => ?stored, fun hnone => ?noKey⟩
    case stored =>
      obtain rfl : j = k := Option.some.inj (hkey.symm.trans (lowestKey_eq_some hk hlow))
      refine ⟨s.setReg_frame x _, ?_, fun q hq => s.reg_setReg_ne hq _⟩
      rw [State.reg_setReg_self, keyCode_toNat]
    case noKey => cases hkey.symm.trans (lowestKey_eq_none hnone)
  | none =>
    refine ⟨_, exec_ldVxK_of_noKey x hkey, fun k hk hlow => ?key, fun _ => ⟨rfl, rewind_toNat s.pc⟩⟩
    case key => cases hkey.symm.trans (lowestKey_eq_some hk hlow)

end Sys2Proof.Machine
end

section
/-! SUPPORT. Index register: the three instructions that set `I` (45_index_memory.md R200 to R202). -/

namespace Sys2Proof.Machine

/-! ### The arms of `exec` -/

theorem exec_ldIdx (nnn : Word) (s : State) : exec (.ldIdx nnn) s = .next (s.setI nnn) := rfl

theorem exec_addIdx (x : Reg) (s : State) :
    exec (.addIdx x) s = .next (s.setI (addByte s.I (s.reg x))) := rfl

theorem exec_ldF (x : Reg) (s : State) : exec (.ldF x) s = .next (s.setI (glyphAddr (s.reg x))) := rfl

/-! ### Instructions that write the index register -/

/-- An index write leaves every element but `I`. -/
theorem State.setI_frame (s : State) (v : Word) : s.setI v = { s with I := (s.setI v).I } := rfl

/-! ### The obligations -/

/-- Settles O43: each of the three is one index write, of a value that `addByte_toNat` and `glyphAddr_toNat` read as a
number. -/
theorem indexLoadsWriteOnlyTheIndex : Obligations.IndexLoadsWriteOnlyTheIndex := by
  intro nnn x s
  refine ⟨⟨_, exec_ldIdx nnn s, s.setI_frame nnn, s.setI_I nnn⟩,
    ⟨_, exec_addIdx x s, s.setI_frame _, ?sum⟩, ⟨_, exec_ldF x s, s.setI_frame _, ?glyph⟩⟩
  case sum => rw [State.setI_I, addByte_toNat]
  case glyph => rw [State.setI_I, glyphAddr_toNat]

end Sys2Proof.Machine
end

section
/-! SUPPORT. The first fetch of a loaded machine (70_reset_and_hazards.md R261): memory from 0x200 on reads as the image
followed by zeros, since reset leaves only zeros above the font (10_state.md R36). -/

namespace Sys2Proof.Machine

/-- The font ends at 0x09F, and above it reset leaves zeros (10_state.md R36). -/
theorem Memory.resetByte_above_font {a : Nat} (h : 0x0A0 ≤ a) : Memory.resetByte a = 0 := by
  have hbase : ¬ a < Config.fontBase := fun hlt => absurd (h.trans_lt hlt) (by decide)
  have hpast : Config.font.length ≤ a - Config.fontBase := Nat.le_sub_of_add_le h
  rw [Memory.resetByte, if_neg hbase, List.getD_eq_default _ _ hpast]

/-- Reset memory lists nothing, so it reads as zero between the font and the end. -/
theorem State.read_reset_above_font {a : Nat} (h : 0x0A0 ≤ a) (ha : a < 4096) : State.reset.mem.read a = 0 := by
  have hwrap : wrapAddr a = a := Nat.mod_eq_of_lt ha
  calc State.reset.mem.read a
    _ = Memory.resetByte (wrapAddr a) := rfl
    _ = 0 := by rw [hwrap, Memory.resetByte_above_font h]

/-- After reset and a load, memory from 0x200 on reads as the image followed by zeros. -/
theorem State.read_copyImage_reset {image : List Byte} (hl : image.length ≤ 3584) {k : Nat} (hk : k < 3584) :
    (State.reset.copyImage image).mem.read (0x200 + k) = image.getD k 0 := by
  rcases Nat.lt_or_ge k image.length with hin | hpast
  · rw [State.read_copyImage_inside _ hl hin, List.getD_eq_getElem _ _ hin]
  · rw [State.read_copyImage_outside _ hl (by omega) (.inr (by omega)), State.read_reset_above_font (by omega) (by omega),
      List.getD_eq_default _ _ hpast]

/-- Copying an image keeps the invariant: it is a run of writes and leaves `sp` alone. -/
theorem State.copyImage_inv {s : State} (h : s.Inv) (image : List Byte) : (s.copyImage image).Inv :=
  h.imp_left fun hwf => Memory.wf_writeBytes hwf 0x200 image

/-- Settles O50: the load leaves reset's status, `sp` and `pc`, and the fetch at 0x200 reads the first two bytes of the
zero-padded image. -/
theorem firstFetchReadsTheImage : Obligations.FirstFetchReadsTheImage := by
  rintro image _ ⟨hl, rfl⟩
  have hreset : State.reset.Inv := ⟨Memory.wf_nil, Nat.zero_le 16⟩
  have hfirst := State.read_copyImage_reset hl (k := 0) (by decide)
  have hsecond := State.read_copyImage_reset hl (k := 1) (by decide)
  refine ⟨rfl, State.copyImage_inv hreset image, rfl, ?fetch⟩
  case fetch => exact congrArg₂ wordOfBytes hfirst hsecond

end Sys2Proof.Machine
end

section
/-! SUPPORT. Decoding and encoding: the two are inverse (30_encoding.md R81 to R85), the decoder follows the opcode map
(R85), and the unknown words are those of R86. -/

namespace Sys2Proof

/-! ### A word is made of its fields -/

theorem regField_ofNat (n : Nibble) : regField (Fin.ofNat 16 n.toNat) = n := by
  apply BitVec.eq_of_toNat_eq
  rw [regField_toNat, Fin.val_ofNat, Nat.mod_eq_of_lt n.isLt]

theorem formatA_fields (op : Word) : formatA (fieldF op) (fieldNNN op) = op := by
  apply BitVec.eq_of_getLsbD_eq
  intro i hi
  simp only [formatA, fieldF, fieldNNN, BitVec.getLsbD_append, BitVec.getLsbD_setWidth, BitVec.getLsbD_extractLsb']
  interval_cases i <;> simp

theorem formatXY_fields (op : Word) : formatXY (fieldF op) (fieldX op) (fieldY op) (fieldN op) = op := by
  apply BitVec.eq_of_getLsbD_eq
  intro i hi
  simp only [formatXY, fieldX, fieldY, regField_ofNat, fieldF, fieldN, BitVec.getLsbD_append,
    BitVec.getLsbD_extractLsb']
  interval_cases i <;> simp

theorem formatXB_fields (op : Word) : formatXB (fieldF op) (fieldX op) (fieldNN op) = op := by
  apply BitVec.eq_of_getLsbD_eq
  intro i hi
  simp only [formatXB, fieldX, regField_ofNat, fieldF, fieldNN, BitVec.getLsbD_append, BitVec.getLsbD_extractLsb']
  interval_cases i <;> simp

/-- The 12-bit field of a word fits an address of 12 bits (R83). -/
theorem fitsNNN_fieldNNN (op : Word) : fitsNNN (fieldNNN op) = true := by
  have := (op.extractLsb' 0 12).isLt
  simp only [fitsNNN, fieldNNN, BitVec.toNat_setWidth, decide_eq_true_eq]
  omega

theorem fitsRowCount_nibble (n : Nibble) : fitsRowCount n.toNat = true := decide_eq_true n.isLt

/-! ### Words as numbers -/

theorem formatA_toNat (f : Nibble) (nnn : Word) : (formatA f nnn).toNat = 0x1000 * f.toNat + nnn.toNat % 0x1000 := by
  have hlt : nnn.toNat % 0x1000 < 2 ^ 12 := Nat.mod_lt _ (by decide)
  rw [formatA, BitVec.toNat_append, BitVec.toNat_setWidth, ← Nat.shiftLeft_add_eq_or_of_lt hlt, Nat.shiftLeft_eq,
    Nat.mul_comm]

theorem wordOfBytes_toNat (hi lo : Byte) : (wordOfBytes hi lo).toNat = 256 * hi.toNat + lo.toNat := by
  have hlt : lo.toNat < 2 ^ 8 := lo.isLt
  rw [wordOfBytes, BitVec.toNat_append, ← Nat.shiftLeft_add_eq_or_of_lt hlt, Nat.shiftLeft_eq, Nat.mul_comm]

/-! ### The decoder undoes the encoder -/

theorem decode_encode {i : Instr} (h : i.wellFormed = true) : decode (encode i) = .ok i := by
  cases i with
  | cls | ret => rfl
  | jp nnn | call nnn | ldIdx nnn | jpV0 nnn => simp [encode, decode, setWidth_fitsNNN h]
  | drw x y n =>
    have hn : n % 16 = n := Nat.mod_eq_of_lt (of_decide_eq_true h)
    simp [encode, decode, hn]
  | seI x nn | sneI x nn | ldI x nn | addI x nn | rnd x nn => simp [encode, decode]
  | seR x y n | sneR x y n => simp [encode, decode]
  | ldR x y | or x y | and x y | xor x y | addR x y | sub x y | shr x y | subn x y | shl x y =>
    simp [encode, decode, decode8]
  | skp x | sknp x => simp [encode, decode, decodeE]
  | ldVxDt x | ldVxK x | ldDtVx x | ldStVx x | addIdx x | ldF x | ldB x | stRegs x | ldRegs x =>
    simp [encode, decode, decodeF]

/-- Settles O18, by the instruction's format: the fields of its word are the operands. -/
theorem decodeInvertsEncode : Obligations.DecodeInvertsEncode := fun _ h => decode_encode h

/-! ### The encoder undoes the decoder -/

theorem decode0_ok {op : Word} {i : Instr} (h : decode0 op = .ok i) : encode i = op ∧ i.wellFormed = true := by
  unfold decode0 at h
  split at h <;> cases h <;> exact ⟨rfl, rfl⟩

theorem decode8_ok {n : Nibble} {x y : Reg} {i : Instr} (h : decode8 n x y = .ok i) :
    encode i = formatXY 0x8 x y n ∧ i.wellFormed = true := by
  unfold decode8 at h
  split at h <;> cases h <;> exact ⟨rfl, rfl⟩

theorem decodeE_ok {nn : Byte} {x : Reg} {i : Instr} (h : decodeE nn x = .ok i) :
    encode i = formatXB 0xE x nn ∧ i.wellFormed = true := by
  unfold decodeE at h
  split at h <;> cases h <;> exact ⟨rfl, rfl⟩

theorem decodeF_ok {nn : Byte} {x : Reg} {i : Instr} (h : decodeF nn x = .ok i) :
    encode i = formatXB 0xF x nn ∧ i.wellFormed = true := by
  unfold decodeF at h
  split at h <;> cases h <;> exact ⟨rfl, rfl⟩

theorem formatA_of_family {op : Word} {f : Nibble} (hf : fieldF op = f) : formatA f (fieldNNN op) = op :=
  hf ▸ formatA_fields op

theorem formatXB_of_family {op : Word} {f : Nibble} (hf : fieldF op = f) :
    formatXB f (fieldX op) (fieldNN op) = op :=
  hf ▸ formatXB_fields op

theorem formatXY_of_family {op : Word} {f : Nibble} (hf : fieldF op = f) :
    formatXY f (fieldX op) (fieldY op) (fieldN op) = op :=
  hf ▸ formatXY_fields op

/-- A word decodes outright, to the instruction it encodes, or by the sub-decoder of one of the four families that
hold unknown words. -/
theorem decode_cases (op : Word) :
    (∃ i, decode op = .ok i ∧ encode i = op ∧ i.wellFormed = true) ∨
    (fieldF op = 0x0#4 ∧ decode op = decode0 op) ∨
    (fieldF op = 0x8#4 ∧ decode op = decode8 (fieldN op) (fieldX op) (fieldY op)) ∨
    (fieldF op = 0xE#4 ∧ decode op = decodeE (fieldNN op) (fieldX op)) ∨
    (fieldF op = 0xF#4 ∧ decode op = decodeF (fieldNN op) (fieldX op)) := by
  generalize hd : decode op = d
  unfold decode at hd
  split at hd <;> subst hd
  case h_1 hf => exact .inr (.inl ⟨hf, rfl⟩)
  case h_9 hf => exact .inr (.inr (.inl ⟨hf, rfl⟩))
  case h_15 hf => exact .inr (.inr (.inr (.inl ⟨hf, rfl⟩)))
  case h_16 =>
    have hf : fieldF op = 0xF#4 := by
      simp only [imp_false, ← BitVec.toNat_inj, BitVec.toNat_ofNat] at *
      omega
    exact .inr (.inr (.inr (.inr ⟨hf, rfl⟩)))
  case h_2 hf | h_3 hf | h_11 hf | h_12 hf =>
    exact .inl ⟨_, rfl, formatA_of_family hf, fitsNNN_fieldNNN op⟩
  case h_4 hf | h_5 hf | h_7 hf | h_8 hf | h_13 hf => exact .inl ⟨_, rfl, formatXB_of_family hf, rfl⟩
  case h_6 hf | h_10 hf => exact .inl ⟨_, rfl, formatXY_of_family hf, rfl⟩
  case h_14 hf =>
    have hrows : BitVec.ofNat 4 (fieldN op).toNat = fieldN op := BitVec.ofNat_toNat ..
    exact .inl ⟨_, rfl, by rw [encode, hrows]; exact formatXY_of_family hf, fitsRowCount_nibble _⟩

theorem encode_decode {op : Word} {i : Instr} (h : decode op = .ok i) : encode i = op ∧ i.wellFormed = true := by
  rcases decode_cases op with ⟨j, hj, hop⟩ | ⟨hf, hd⟩ | ⟨hf, hd⟩ | ⟨hf, hd⟩ | ⟨hf, hd⟩
  · obtain rfl : j = i := Except.ok.inj (hj.symm.trans h)
    exact hop
  · exact decode0_ok (hd ▸ h)
  · exact formatXY_of_family hf ▸ decode8_ok (hd ▸ h)
  · exact formatXB_of_family hf ▸ decodeE_ok (hd ▸ h)
  · exact formatXB_of_family hf ▸ decodeF_ok (hd ▸ h)

/-- Settles O19, by the family of the word: a word is made of the fields the decoder takes from it. -/
theorem encodeInvertsDecode : Obligations.EncodeInvertsDecode := fun _ _ h => encode_decode h

/-! ### Unknown words (R86) -/

theorem fieldF_toNat (op : Word) : (fieldF op).toNat = op.toNat / 0x1000 := by
  have := op.isLt
  simp only [fieldF, BitVec.extractLsb'_toNat, Nat.shiftRight_eq_div_pow]
  omega

theorem fieldN_toNat (op : Word) : (fieldN op).toNat = op.toNat % 16 := by
  simp [fieldN]

theorem fieldNN_toNat (op : Word) : (fieldNN op).toNat = op.toNat % 256 := by
  simp [fieldNN]

/-- Only families 0, 8, E and F hold unknown words. -/
theorem decode_eq_error_iff {op : Word} {e : Unknown} :
    decode op = .error e ↔
      (fieldF op = 0x0#4 ∧ decode0 op = .error e) ∨
      (fieldF op = 0x8#4 ∧ decode8 (fieldN op) (fieldX op) (fieldY op) = .error e) ∨
      (fieldF op = 0xE#4 ∧ decodeE (fieldNN op) (fieldX op) = .error e) ∨
      (fieldF op = 0xF#4 ∧ decodeF (fieldNN op) (fieldX op) = .error e) := by
  constructor
  · intro h
    rcases decode_cases op with ⟨i, hi, -⟩ | ⟨hf, hd⟩ | ⟨hf, hd⟩ | ⟨hf, hd⟩ | ⟨hf, hd⟩
    · cases hi.symm.trans h
    all_goals simp [hf, ← hd, h]
  · rintro (⟨hf, h⟩ | ⟨hf, h⟩ | ⟨hf, h⟩ | ⟨hf, h⟩) <;> simp [decode, hf, h]

theorem decode0_eq_error_iff {op : Word} {e : Unknown} :
    decode0 op = .error e ↔ e = .family0 ∧ op ≠ 0x00E0 ∧ op ≠ 0x00EE := by
  unfold decode0
  split <;> simp_all [eq_comm]

theorem decode8_eq_error_iff {n : Nibble} {x y : Reg} {e : Unknown} :
    decode8 n x y = .error e ↔ e = .family8 ∧ n.toNat ∈ [8, 9, 10, 11, 12, 13, 15] := by
  unfold decode8
  split
  case h_10 =>
    have : n.toNat ∈ [8, 9, 10, 11, 12, 13, 15] := by
      simp only [imp_false, ← BitVec.toNat_inj, BitVec.toNat_ofNat, List.mem_cons, List.not_mem_nil, or_false] at *
      omega
    simp [this, eq_comm]
  all_goals simp

theorem decodeE_eq_error_iff {nn : Byte} {x : Reg} {e : Unknown} :
    decodeE nn x = .error e ↔ e = .familyE ∧ nn.toNat ∉ [0x9E, 0xA1] := by
  unfold decodeE
  split <;> simp_all [eq_comm, ← BitVec.toNat_inj]

theorem decodeF_eq_error_iff {nn : Byte} {x : Reg} {e : Unknown} :
    decodeF nn x = .error e ↔
      e = .familyF ∧ nn.toNat ∉ [0x07, 0x0A, 0x15, 0x18, 0x1E, 0x29, 0x33, 0x55, 0x65] := by
  unfold decodeF
  split <;> simp_all [eq_comm, ← BitVec.toNat_inj]

/-- Settles O21: each family's arm says which of its words it refuses, and by what name. -/
theorem unknownWordsByFamily : Obligations.UnknownWordsByFamily := by
  intro op
  simp only [decode_eq_error_iff, decode0_eq_error_iff, decode8_eq_error_iff, decodeE_eq_error_iff,
    decodeF_eq_error_iff, fieldN_toNat, fieldNN_toNat, ← BitVec.toNat_inj (x := fieldF op), fieldF_toNat]
  exact ⟨by simp, by simp, by simp, by simp⟩

/-- Settles O22, by evaluation of the eleven words. -/
theorem sampleWordsDecodeAsTheTableSays : Obligations.SampleWordsDecodeAsTheTableSays := by
  unfold Obligations.SampleWordsDecodeAsTheTableSays
  decide

/-! ### The opcode map (R85) -/

theorem rowOf_selects_encode (i : Instr) : (rowOf i).selects (encode i) = true := by
  cases i with
  | cls => exact Laws.EncodesInItsRow.cls
  | ret => exact Laws.EncodesInItsRow.ret
  | jp nnn => exact Laws.EncodesInItsRow.jp nnn
  | call nnn => exact Laws.EncodesInItsRow.call nnn
  | seI x nn => exact Laws.EncodesInItsRow.seI x nn
  | sneI x nn => exact Laws.EncodesInItsRow.sneI x nn
  | seR x y n => exact Laws.EncodesInItsRow.seR x y n
  | ldI x nn => exact Laws.EncodesInItsRow.ldI x nn
  | addI x nn => exact Laws.EncodesInItsRow.addI x nn
  | ldR x y => exact Laws.EncodesInItsRow.ldR x y
  | or x y => exact Laws.EncodesInItsRow.or x y
  | and x y => exact Laws.EncodesInItsRow.and x y
  | xor x y => exact Laws.EncodesInItsRow.xor x y
  | addR x y => exact Laws.EncodesInItsRow.addR x y
  | sub x y => exact Laws.EncodesInItsRow.sub x y
  | shr x y => exact Laws.EncodesInItsRow.shr x y
  | subn x y => exact Laws.EncodesInItsRow.subn x y
  | shl x y => exact Laws.EncodesInItsRow.shl x y
  | sneR x y n => exact Laws.EncodesInItsRow.sneR x y n
  | ldIdx nnn => exact Laws.EncodesInItsRow.ldIdx nnn
  | jpV0 nnn => exact Laws.EncodesInItsRow.jpV0 nnn
  | rnd x nn => exact Laws.EncodesInItsRow.rnd x nn
  | drw x y n => exact Laws.EncodesInItsRow.drw x y n
  | skp x => exact Laws.EncodesInItsRow.skp x
  | sknp x => exact Laws.EncodesInItsRow.sknp x
  | ldVxDt x => exact Laws.EncodesInItsRow.ldVxDt x
  | ldVxK x => exact Laws.EncodesInItsRow.ldVxK x
  | ldDtVx x => exact Laws.EncodesInItsRow.ldDtVx x
  | ldStVx x => exact Laws.EncodesInItsRow.ldStVx x
  | addIdx x => exact Laws.EncodesInItsRow.addIdx x
  | ldF x => exact Laws.EncodesInItsRow.ldF x
  | ldB x => exact Laws.EncodesInItsRow.ldB x
  | stRegs x => exact Laws.EncodesInItsRow.stRegs x
  | ldRegs x => exact Laws.EncodesInItsRow.ldRegs x

theorem rowOf_mem_opcodeRows (i : Instr) : rowOf i ∈ opcodeRows := by
  cases i <;> simp [opcodeRows, rowsLow, rowsMid, rowsHigh, rowOf]

theorem selects_iff {r : OpcodeRow} {op : Word} : r.selects op = true ↔ op &&& r.mask = r.value := by
  simp [OpcodeRow.selects]

/-- A word that selects two rows makes each value agree with the other's on the common mask. -/
theorem value_and_mask_of_selects {r r' : OpcodeRow} {op : Word} (h : r.selects op = true)
    (h' : r'.selects op = true) : r.value &&& r'.mask = r'.value &&& r.mask := by
  rw [selects_iff] at h h'
  rw [← h, ← h', BitVec.and_assoc, BitVec.and_assoc, BitVec.and_comm r.mask]

theorem opcodeRows_values_differ :
    opcodeRows.Pairwise fun r r' => r.value &&& r'.mask ≠ r'.value &&& r.mask := by
  decide

/-! A row fixes every bit of its mask, so a word that selects it shares those fields with its value. -/

theorem fieldF_and (a b : Word) : fieldF (a &&& b) = fieldF a &&& fieldF b := BitVec.extractLsb'_and

theorem fieldN_and (a b : Word) : fieldN (a &&& b) = fieldN a &&& fieldN b := BitVec.extractLsb'_and

theorem fieldNN_and (a b : Word) : fieldNN (a &&& b) = fieldNN a &&& fieldNN b := BitVec.extractLsb'_and

theorem fieldF_of_selects {r : OpcodeRow} {op : Word} (h : r.selects op = true) (hm : fieldF r.mask = 0xF#4) :
    fieldF op = fieldF r.value := by
  rw [← selects_iff.1 h, fieldF_and, hm]
  exact BitVec.and_allOnes.symm

theorem fieldN_of_selects {r : OpcodeRow} {op : Word} (h : r.selects op = true) (hm : fieldN r.mask = 0xF#4) :
    fieldN op = fieldN r.value := by
  rw [← selects_iff.1 h, fieldN_and, hm]
  exact BitVec.and_allOnes.symm

theorem fieldNN_of_selects {r : OpcodeRow} {op : Word} (h : r.selects op = true) (hm : fieldNN r.mask = 0xFF#8) :
    fieldNN op = fieldNN r.value := by
  rw [← selects_iff.1 h, fieldNN_and, hm]
  exact BitVec.and_allOnes.symm

/-- The rows of families 0, 8, E and F fix the bits by which those families refuse a word, at a value they do not
refuse. -/
theorem opcodeRows_known : ∀ r ∈ opcodeRows, fieldF r.mask = 0xF#4 ∧
    (fieldF r.value = 0x0#4 → r.mask = 0xFFFF ∧ (r.value = 0x00E0 ∨ r.value = 0x00EE)) ∧
    (fieldF r.value = 0x8#4 → fieldN r.mask = 0xF#4 ∧ (fieldN r.value).toNat ∉ [8, 9, 10, 11, 12, 13, 15]) ∧
    (fieldF r.value = 0xE#4 → fieldNN r.mask = 0xFF#8 ∧ (fieldNN r.value).toNat ∈ [0x9E, 0xA1]) ∧
    (fieldF r.value = 0xF#4 → fieldNN r.mask = 0xFF#8 ∧
      (fieldNN r.value).toNat ∈ [0x07, 0x0A, 0x15, 0x18, 0x1E, 0x29, 0x33, 0x55, 0x65]) := by
  decide

theorem decode_ne_error_of_selects {r : OpcodeRow} (hr : r ∈ opcodeRows) {op : Word} (h : r.selects op = true)
    (e : Unknown) : decode op ≠ .error e := by
  obtain ⟨hm, known0, known8, knownE, knownF⟩ := opcodeRows_known r hr
  have hfam := fieldF_of_selects h hm
  rw [ne_eq, decode_eq_error_iff]
  rintro (⟨hf, hd⟩ | ⟨hf, hd⟩ | ⟨hf, hd⟩ | ⟨hf, hd⟩) <;> rw [hfam] at hf
  · obtain ⟨hmask, hval⟩ := known0 hf
    obtain ⟨-, hcls, hret⟩ := decode0_eq_error_iff.1 hd
    have hop : op = r.value := calc
      op = op &&& 0xFFFF := BitVec.and_allOnes.symm
      _ = r.value := hmask ▸ selects_iff.1 h
    exact hval.elim (hop ▸ hcls) (hop ▸ hret)
  · obtain ⟨hmask, hval⟩ := known8 hf
    exact hval (fieldN_of_selects h hmask ▸ (decode8_eq_error_iff.1 hd).2)
  · obtain ⟨hmask, hval⟩ := knownE hf
    exact (decodeE_eq_error_iff.1 hd).2 (fieldNN_of_selects h hmask ▸ hval)
  · obtain ⟨hmask, hval⟩ := knownF hf
    exact (decodeF_eq_error_iff.1 hd).2 (fieldNN_of_selects h hmask ▸ hval)

theorem rowOf_selects_of_decode {op : Word} {i : Instr} (h : decode op = .ok i) : (rowOf i).selects op = true :=
  (encode_decode h).1 ▸ rowOf_selects_encode i

/-- Settles O20: a decoded word is the encoding of its instruction, which selects that instruction's row; an unknown
word selects none; and two rows differ in a bit both masks keep. -/
theorem decoderFollowsTheOpcodeMap : Obligations.DecoderFollowsTheOpcodeMap := by
  refine ⟨rfl, fun op => ⟨?selects, ?decodes⟩, ?ownRow, ?disjoint⟩
  case selects => exact fun ⟨i, h⟩ => ⟨rowOf i, rowOf_mem_opcodeRows i, rowOf_selects_of_decode h⟩
  case decodes =>
    rintro ⟨r, hr, h⟩
    cases hd : decode op with
    | ok i => exact ⟨i, rfl⟩
    | error e => exact absurd hd (decode_ne_error_of_selects hr h e)
  case ownRow => exact fun op i h => ⟨rowOf_mem_opcodeRows i, rowOf_selects_of_decode h⟩
  case disjoint => exact opcodeRows_values_differ.imp fun hne op ⟨h, h'⟩ => hne (value_and_mask_of_selects h h')

end Sys2Proof
end

section
/-! SUPPORT. The frame of the execute phase: what each instruction leaves unchanged (10_state.md R38). -/

namespace Sys2Proof.Machine

/-! ### What each operation leaves unchanged -/

theorem SameOn.trans {s t u : State} {e : Element} (h : SameOn s t e) (h' : SameOn t u e) : SameOn s u e := by
  cases e with
  | stack | random => exact ⟨h'.1.trans h.1, h'.2.trans h.2⟩
  | _ => exact Eq.trans h' h

section Frames

/-! In these frames `l` stands for the elements an instruction writes, the one of the operation among them. -/

variable {s : State} {e : Element} {l : List Element}

theorem sameOn_setReg {r : Reg} {v : Byte} (h : e ∉ l) (hl : Element.registers ∈ l := by simp [writes]) :
    SameOn s (s.setReg r v) e := by
  have hne := ne_of_mem_of_not_mem hl h
  cases e <;> simp [SameOn] at hne ⊢

theorem sameOn_setRegs {x : Vector Byte 16} (h : e ∉ l) (hl : Element.registers ∈ l := by simp [writes]) :
    SameOn s (s.setRegs x) e := by
  have hne := ne_of_mem_of_not_mem hl h
  cases e <;> simp [SameOn] at hne ⊢

theorem sameOn_setI {v : Word} (h : e ∉ l) (hl : Element.index ∈ l := by simp [writes]) :
    SameOn s (s.setI v) e := by
  have hne := ne_of_mem_of_not_mem hl h
  cases e <;> simp [SameOn] at hne ⊢

theorem sameOn_setPc {v : Word} (h : e ∉ l) (hl : Element.programCounter ∈ l := by simp [writes]) :
    SameOn s (s.setPc v) e := by
  have hne := ne_of_mem_of_not_mem hl h
  cases e <;> simp [SameOn] at hne ⊢

theorem sameOn_setDt {v : Byte} (h : e ∉ l) (hl : Element.delayTimer ∈ l := by simp [writes]) :
    SameOn s (s.setDt v) e := by
  have hne := ne_of_mem_of_not_mem hl h
  cases e <;> simp [SameOn] at hne ⊢

theorem sameOn_setSt {v : Byte} (h : e ∉ l) (hl : Element.soundTimer ∈ l := by simp [writes]) :
    SameOn s (s.setSt v) e := by
  have hne := ne_of_mem_of_not_mem hl h
  cases e <;> simp [SameOn] at hne ⊢

theorem sameOn_setMem {m : Memory} (h : e ∉ l) (hl : Element.memory ∈ l := by simp [writes]) :
    SameOn s (s.setMem m) e := by
  have hne := ne_of_mem_of_not_mem hl h
  cases e <;> simp [SameOn] at hne ⊢

theorem sameOn_setDisp {d : Display} (h : e ∉ l) (hl : Element.display ∈ l := by simp [writes]) :
    SameOn s (s.setDisp d) e := by
  have hne := ne_of_mem_of_not_mem hl h
  cases e <;> simp [SameOn] at hne ⊢

theorem sameOn_push {v : Word} {hs : s.sp.toNat < 16} (h : e ∉ l) (hl : Element.stack ∈ l := by simp [writes]) :
    SameOn s (s.push v hs) e := by
  have hne := ne_of_mem_of_not_mem hl h
  cases e <;> simp [SameOn] at hne ⊢

theorem sameOn_drop (h : e ∉ l) (hl : Element.stack ∈ l := by simp [writes]) :
    SameOn s s.drop e := by
  have hne := ne_of_mem_of_not_mem hl h
  cases e <;> simp [SameOn] at hne ⊢

theorem sameOn_raise {c : Cause} {op : Word} (h : e ∉ l) (hl : Element.status ∈ l := by simp [writes]) :
    SameOn s (s.raise c op) e := by
  have hne := ne_of_mem_of_not_mem hl h
  cases e <;> simp [SameOn] at hne ⊢

theorem sameOn_afterDraw (h : e ∉ l) (hl : Element.random ∈ l := by simp [writes]) :
    SameOn s s.afterDraw e := by
  have hne := ne_of_mem_of_not_mem hl h
  cases e <;> simp [SameOn] at hne ⊢

theorem sameOn_skipIf {c : Bool} (h : e ∉ l) (hl : Element.programCounter ∈ l := by simp [writes]) :
    SameOn s (s.skipIf c) e := by
  rw [State.skipIf_eq]
  exact sameOn_setPc h hl

end Frames

/-! ### What each instruction leaves unchanged -/

/-- The frame of the execute phase: an element not listed for an instruction stays as it is. -/
theorem exec_sameOn {i : Instr} {s t : State} {e : Element} (h : exec i s = .next t) (he : e ∉ writes i) :
    SameOn s t e := by
  cases i with
  | cls => cases h; exact sameOn_setDisp he
  | ret =>
    rcases execRet_cases h with ⟨-, rfl⟩ | ⟨-, rfl⟩
    · exact sameOn_raise he
    · exact (sameOn_drop he).trans (sameOn_setPc he)
  | call nnn =>
    rcases execCall_cases h with ⟨-, rfl⟩ | ⟨-, rfl⟩
    · exact sameOn_raise he
    · exact (sameOn_push he).trans (sameOn_setPc he)
  | jp nnn | jpV0 nnn => cases h; exact sameOn_setPc he
  | seI x nn | sneI x nn | seR x y n | sneR x y n | skp x | sknp x => cases h; exact sameOn_skipIf he
  | ldI x nn | addI x nn | ldR x y | or x y | and x y | xor x y | ldVxDt x => cases h; exact sameOn_setReg he
  | addR x y | sub x y | shr x y | subn x y | shl x y =>
    cases h; exact (sameOn_setReg he).trans (sameOn_setReg he)
  | ldIdx nnn | addIdx x | ldF x => cases h; exact sameOn_setI he
  | rnd x nn => cases h; exact (sameOn_afterDraw he).trans (sameOn_setReg he)
  | drw x y n => cases h; exact (sameOn_setDisp he).trans (sameOn_setReg he)
  | ldVxK x =>
    cases hk : lowestKey s.key with
    | some k => cases (exec_ldVxK_of_key x hk).symm.trans h; exact sameOn_setReg he
    | none => cases (exec_ldVxK_of_noKey x hk).symm.trans h; exact sameOn_setPc he
  | ldDtVx x => cases h; exact sameOn_setDt he
  | ldStVx x => cases h; exact sameOn_setSt he
  | ldB x | stRegs x => cases h; exact sameOn_setMem he
  | ldRegs x => cases h; exact sameOn_setRegs he

/-- Settles O15: the frame of each instruction is that of the operations it is made of. -/
theorem executeWritesOnlyWhatIsListed : Obligations.ExecuteWritesOnlyWhatIsListed :=
  fun _ _ _ _ h he => exec_sameOn h he

end Sys2Proof.Machine
end

section
/-! SUPPORT. The execute phase as a whole: that no instruction reads the sound timer or the report log (10_state.md R28,
R34), when it faults (60_exceptions.md R220) and when it stops. -/

namespace Sys2Proof.Machine

/-! ### Who writes which element -/

theorem reports_notMem_writes (i : Instr) : Element.reports ∉ writes i := by
  cases i <;> simp [writes]

theorem memory_mem_writes {i : Instr} (h : Element.memory ∈ writes i) : ∃ x, i = .ldB x ∨ i = .stRegs x := by
  cases i <;> simp [writes] at h ⊢

theorem delayTimer_mem_writes_iff {i : Instr} : Element.delayTimer ∈ writes i ↔ ∃ x, i = .ldDtVx x := by
  cases i <;> simp [writes]

theorem soundTimer_mem_writes_iff {i : Instr} : Element.soundTimer ∈ writes i ↔ ∃ x, i = .ldStVx x := by
  cases i <;> simp [writes]

theorem stack_mem_writes {i : Instr} (h : Element.stack ∈ writes i) : i = .ret ∨ ∃ nnn, i = .call nnn := by
  cases i <;> simp [writes] at h ⊢

theorem status_mem_writes {i : Instr} (h : Element.status ∈ writes i) : i = .ret ∨ ∃ nnn, i = .call nnn := by
  cases i <;> simp [writes] at h ⊢

/-! ### What no instruction reads -/

/-- The state with another sound timer and another report log, the two elements that no instruction reads. -/
def State.withUnread (s : State) (v : Byte) (log : List Report) : State := { s with st := v, reports := log }

theorem State.skipIf_withUnread (s : State) (v : Byte) (log : List Report) (c : Bool) :
    (s.withUnread v log).skipIf c = (s.skipIf c).withUnread v log := by
  cases c <;> rfl

/-- An instruction does the same whatever the sound timer and the report log hold, and keeps both unless it writes the
sound timer. -/
theorem exec_withUnread {i : Instr} {s t : State} (h : exec i s = .next t) (v : Byte) (log : List Report) :
    exec i (s.withUnread v log) = .next (t.withUnread (if Element.soundTimer ∈ writes i then t.st else v) log) := by
  cases i with
  | ret =>
    rcases execRet_cases h with ⟨hsp, rfl⟩ | ⟨hsp, rfl⟩
    · exact execRet_empty hsp
    · exact execRet_pop (s := s.withUnread v log) hsp
  | call nnn =>
    rcases execCall_cases h with ⟨hsp, rfl⟩ | ⟨hsp, rfl⟩
    · exact execCall_full nnn hsp
    · exact execCall_push (s := s.withUnread v log) nnn hsp
  | ldVxK x =>
    cases hk : lowestKey s.key with
    | some k => cases (exec_ldVxK_of_key x hk).symm.trans h; exact exec_ldVxK_of_key x hk
    | none => cases (exec_ldVxK_of_noKey x hk).symm.trans h; exact exec_ldVxK_of_noKey x hk
  | seI x nn | sneI x nn | seR x y n | sneR x y n | skp x | sknp x =>
    cases h; exact congrArg Host.Outcome.next (s.skipIf_withUnread v log _)
  | _ => cases h; rfl

/-- Settles O17: the log in `exec_withUnread` is the one the instruction keeps. -/
theorem soundTimerIsNeverRead : Obligations.SoundTimerIsNeverRead := by
  intro i s t v h
  have hlog : t.reports = s.reports := exec_sameOn h (reports_notMem_writes i)
  refine (exec_withUnread h v s.reports).trans (congrArg Host.Outcome.next ?_)
  rw [← hlog]
  split <;> rfl

/-! ### Faults (60_exceptions.md R220, R228) and stops -/

/-- A running machine faults only in a call on a full stack or a return on an empty one. -/
theorem exec_faulted_cases {i : Instr} {s t : State} (h : exec i s = .next t) (hs : s.status = .running)
    (ht : t.status ≠ .running) :
    (∃ nnn, i = .call nnn ∧ s.sp = 16 ∧ t = s.raise .stackOverflow (encode i)) ∨
    (i = .ret ∧ s.sp = 0 ∧ t = s.raise .stackUnderflow (encode i)) := by
  have hw : Element.status ∈ writes i := by
    by_contra hn
    have hstatus : t.status = s.status := exec_sameOn h hn
    exact ht (hstatus.trans hs)
  rcases status_mem_writes hw with rfl | ⟨nnn, rfl⟩
  · rcases execRet_cases h with ⟨hsp, rfl⟩ | ⟨hsp, rfl⟩
    · exact .inr ⟨rfl, hsp, rfl⟩
    · exact absurd hs ht
  · rcases execCall_cases h with ⟨hsp, rfl⟩ | ⟨hsp, rfl⟩
    · exact .inl ⟨nnn, rfl, hsp, rfl⟩
    · exact absurd hs ht

/-- With a legal stack depth every instruction has a next state. -/
theorem exec_total (i : Instr) {s : State} (hsp : s.sp.toNat ≤ 16) : ∃ t, exec i s = .next t := by
  cases i with
  | ret =>
    by_cases h0 : s.sp.toNat = 0
    · exact ⟨_, execRet_empty (BitVec.eq_of_toNat_eq h0)⟩
    · exact ⟨_, execRet_pop ⟨Nat.pos_of_ne_zero h0, hsp⟩⟩
  | call nnn =>
    by_cases h16 : s.sp.toNat = 16
    · exact ⟨_, execCall_full nnn (BitVec.eq_of_toNat_eq h16)⟩
    · exact ⟨_, execCall_push nnn (Nat.lt_of_le_of_ne hsp h16)⟩
  | ldVxK x =>
    cases hk : lowestKey s.key with
    | some k => exact ⟨_, exec_ldVxK_of_key x hk⟩
    | none => exact ⟨_, exec_ldVxK_of_noKey x hk⟩
  | _ => exact ⟨_, rfl⟩

theorem execRet_illegal {s : State} (h : 16 < s.sp.toNat) : exec .ret s = .fault .illegalStackPointer := by
  have hne : s.sp ≠ 0 := fun h0 => by simp [h0] at h
  simp only [exec, execRet]
  rw [if_neg hne, dif_neg fun hs => Nat.not_lt.2 hs.2 h]

theorem execCall_illegal {s : State} (nnn : Word) (h : 16 < s.sp.toNat) :
    exec (.call nnn) s = .fault .illegalStackPointer := by
  have hne : s.sp ≠ 16 := fun h16 => by simp [h16] at h
  simp only [exec, execCall]
  rw [if_neg hne, dif_neg (Nat.not_lt.2 h.le)]

/-- Settles O14: with `sp` above 16 neither guard of the two instructions holds. -/
theorem illegalStackPointerStopsByName : Obligations.IllegalStackPointerStopsByName :=
  fun _ nnn h => ⟨execCall_illegal nnn h, execRet_illegal h⟩

theorem exec_ne_refused (i : Instr) (s : State) (r : Refusal) : exec i s ≠ .refused r := by
  intro h
  rcases Nat.lt_or_ge 16 s.sp.toNat with hsp | hsp
  · cases i with
    | ret => cases (execRet_illegal hsp).symm.trans h
    | call nnn => cases (execCall_illegal nnn hsp).symm.trans h
    | ldVxK x =>
      cases hk : lowestKey s.key with
      | some k => cases (exec_ldVxK_of_key x hk).symm.trans h
      | none => cases (exec_ldVxK_of_noKey x hk).symm.trans h
    | _ => cases h
  · obtain ⟨t, ht⟩ := exec_total i hsp
    cases ht.symm.trans h

end Sys2Proof.Machine
end

section
/-! SUPPORT. The step (40_cycle.md R100 to R107): the invariant it keeps (10_state.md R37), its outcomes
(00_scope.md R11), the reports, the timers and the fault entry (60_exceptions.md R220 to R228). -/

namespace Sys2Proof.Machine

/-! ### The end of a step -/

theorem State.endStep_of_not_running {s : State} (h : s.status ≠ .running) : s.endStep = s := by
  cases hs : s.status with
  | running => exact absurd hs h
  | faulted c a w => exact State.endStep_faulted hs

/-- The end of a step moves at most the two timers. -/
theorem State.endStep_frame (s : State) : s.endStep = { s with dt := s.endStep.dt, st := s.endStep.st } := by
  by_cases h : s.status = .running
  · rw [State.endStep_running h]; rfl
  · rw [State.endStep_of_not_running h]

@[simp] theorem State.endStep_mem (s : State) : s.endStep.mem = s.mem := by rw [State.endStep_frame]
@[simp] theorem State.endStep_sp (s : State) : s.endStep.sp = s.sp := by rw [State.endStep_frame]
@[simp] theorem State.endStep_status (s : State) : s.endStep.status = s.status := by rw [State.endStep_frame]
@[simp] theorem State.endStep_reports (s : State) : s.endStep.reports = s.reports := by rw [State.endStep_frame]

/-- The report log does not matter to the end of a step. -/
theorem State.endStep_setReports (s : State) (log : List Report) :
    State.endStep { s with reports := log } = { s.endStep with reports := log } := by
  by_cases h : s.status = .running
  · rw [State.endStep_running h]; exact State.endStep_running h
  · rw [State.endStep_of_not_running h]; exact State.endStep_of_not_running h

theorem State.reportUnknown_running {s : State} (h : s.status = .running) :
    s.reportUnknown = (s.advance.report s.pc s.fetchWord).decay :=
  State.endStep_running h

/-- A step of a machine that is not running is idle (R107). -/
theorem step_of_not_running {s : State} (h : s.status ≠ .running) : step s = .next s := by
  cases hs : s.status with
  | running => exact absurd hs h
  | faulted c a w => exact step_faulted hs

/-- A decoded instruction that runs on ends its step with the decay. -/
theorem step_completed {s u : State} {i : Instr} (hs : s.status = .running) (hd : decode s.fetchWord = .ok i)
    (hu : exec i s.advance = .next u) (hr : u.status = .running) : step s = .next u.decay := by
  rw [step_decoded hs hd, hu, finish, State.endStep_running hr]

/-- A decoded instruction that raises a fault ends its step without the decay. -/
theorem step_raised {s u : State} {i : Instr} (hs : s.status = .running) (hd : decode s.fetchWord = .ok i)
    (hu : exec i s.advance = .next u) (hr : u.status ≠ .running) : step s = .next u := by
  rw [step_decoded hs hd, hu, finish, State.endStep_of_not_running hr]

/-! ### The invariant -/

theorem exec_inv {i : Instr} {s t : State} (h : exec i s = .next t) (hi : s.Inv) : t.Inv := by
  obtain ⟨hwf, hsp⟩ := hi
  constructor
  · by_cases hw : Element.memory ∈ writes i
    · obtain ⟨x, rfl | rfl⟩ := memory_mem_writes hw <;> cases h <;> exact Memory.wf_writeBytes hwf _ _
    · have hmem : t.mem = s.mem := exec_sameOn h hw
      rwa [hmem]
  · by_cases hw : Element.stack ∈ writes i
    · rcases stack_mem_writes hw with rfl | ⟨nnn, rfl⟩
      · rcases execRet_cases h with ⟨-, rfl⟩ | ⟨hpop, rfl⟩
        · exact hsp
        · show (s.sp - 1).toNat ≤ 16
          bv_omega
      · rcases execCall_cases h with ⟨-, rfl⟩ | ⟨hpush, rfl⟩
        · exact hsp
        · show (s.sp + 1).toNat ≤ 16
          bv_omega
    · obtain ⟨-, hsame⟩ : t.stack = s.stack ∧ t.sp = s.sp := exec_sameOn h hw
      rwa [hsame]

/-- Settles O3, by the three cases of a step: the execute phase keeps the invariant, and nothing else in a step writes
memory or `sp`. -/
theorem everyStepKeepsTheInvariant : Obligations.EveryStepKeepsTheInvariant := by
  intro s t hi h
  rcases step_cases h with ⟨c, a, w, -, rfl⟩ | ⟨-, i, u, -, hu, rfl⟩ | ⟨-, e, -, rfl⟩
  · exact hi
  · simpa [State.Inv] using exec_inv hu hi
  · simpa [State.Inv, State.reportUnknown] using hi

/-! ### Reports -/

/-- An instruction does the same whatever the report log holds. -/
theorem exec_setReports {i : Instr} {s t : State} (h : exec i s = .next t) (log : List Report) :
    exec i { s with reports := log } = .next { t with reports := log } := by
  have hst : (if Element.soundTimer ∈ writes i then t.st else s.st) = t.st := by
    split
    case isTrue => rfl
    case isFalse hw =>
      have hkept : t.st = s.st := exec_sameOn h hw
      exact hkept.symm
  have hexec := exec_withUnread h s.st log
  rwa [hst] at hexec

/-- Settles O16, by the three cases of a step: only that of an unknown word appends a report, and no instruction reads
the log. -/
theorem reportsGrowAndAreNeverRead : Obligations.ReportsGrowAndAreNeverRead := by
  intro s t log h
  rcases step_cases h with ⟨c, a, w, hs, rfl⟩ | ⟨hs, i, u, hd, hu, rfl⟩ | ⟨hs, e, hd, rfl⟩
  · refine ⟨[], Nat.zero_le 1, (List.append_nil _).symm, ?_⟩
    rw [List.append_nil]
    exact step_faulted hs
  · have hkept : u.reports = s.reports := exec_sameOn hu (reports_notMem_writes i)
    refine ⟨[], Nat.zero_le 1, ?_, ?_⟩ <;> rw [List.append_nil]
    · rw [State.endStep_reports, hkept]
    · calc step { s with reports := log }
        _ = finish (exec i { s.advance with reports := log }) := step_decoded hs hd
        _ = finish (.next { u with reports := log }) := congrArg finish (exec_setReports hu log)
        _ = .next { u.endStep with reports := log } := congrArg Host.Outcome.next (u.endStep_setReports log)
  · refine ⟨[⟨s.pc, s.fetchWord⟩], Nat.le_refl 1, State.endStep_reports _, ?_⟩
    calc step { s with reports := log }
      _ = .next (State.reportUnknown { s with reports := log }) := step_unknown hs hd
      _ = _ := congrArg Host.Outcome.next (State.endStep_setReports (s.advance.report s.pc s.fetchWord) _)

/-! ### The three outcomes -/

theorem step_total {s : State} (h : s.sp.toNat ≤ 16) : ∃ t, step s = .next t := by
  by_cases hs : s.status = .running
  · cases hd : decode s.fetchWord with
    | ok i =>
      obtain ⟨u, hu⟩ := exec_total i (s := s.advance) h
      exact ⟨u.endStep, by rw [step_decoded hs hd, hu, finish]⟩
    | error e => exact ⟨_, step_unknown hs hd⟩
  · exact ⟨s, step_of_not_running hs⟩

theorem step_reports {s t : State} (h : step s = .next t) :
    t.reports = s.reports ∨ ∃ e, t.reports = s.reports ++ [e] := by
  obtain ⟨new, hlen, hgrow, -⟩ := reportsGrowAndAreNeverRead s t [] h
  match new, hlen with
  | [], _ => exact .inl (by rw [hgrow, List.append_nil])
  | [e], _ => exact .inr ⟨e, hgrow⟩

/-- Settles O4: the outcome is named by the status before the step and after it. -/
theorem stepHasExactlyThreeOutcomes : Obligations.StepHasExactlyThreeOutcomes := by
  intro s hi
  obtain ⟨-, hsp⟩ := hi
  obtain ⟨t, ht⟩ := step_total hsp
  refine ⟨t, ht, ?_⟩
  by_cases hs : s.status = .running
  · by_cases hr : t.status = .running
    · exact .inl ⟨hs, hr, step_reports ht⟩
    · exact .inr (.inl ⟨hs, hr⟩)
  · cases (step_of_not_running hs).symm.trans ht
    exact .inr (.inr ⟨hs, rfl⟩)

/-! ### The parts of a step -/

/-- Settles O5: the word fetched is the two bytes, and `State.advance` is the state with `pc + 2`. -/
theorem stepRunsTheDecodedInstruction : Obligations.StepRunsTheDecodedInstruction := by
  intro s i hs _ hd
  refine ⟨fun t ht hr => step_completed hs hd ht hr, fun t c a w ht hr => step_raised hs hd ht ?_, fun r ht => ?_,
    exec_ne_refused i _⟩
  · rw [hr]; exact Status.noConfusion
  · exact (step_decoded hs hd).trans (congrArg finish ht)

/-- Settles O8: the step of an unknown word is advance, report and decay. -/
theorem unknownWordIsReportedAndSkipped : Obligations.UnknownWordIsReportedAndSkipped := by
  intro s e hs hd
  refine ⟨(s.advance.report s.pc s.fetchWord).decay, ?_, rfl, decayTimer_toNat s.dt, decayTimer_toNat s.st⟩
  rw [step_unknown hs hd, State.reportUnknown_running hs]

/-! ### Faults -/

/-- The address a fault records is the fetch address: the advance is taken back. -/
theorem State.raise_advance (s : State) (c : Cause) (op : Word) :
    s.advance.raise c op = { s with pc := s.pc + 2, status := .faulted c s.pc op } := by
  have hback : s.pc + 2 - 2 = s.pc := BitVec.add_sub_cancel s.pc 2
  rw [State.raise, State.advance_pc, hback]
  rfl

/-- Settles O11: the word recorded is the encoding of the decoded instruction, which is the fetched word. -/
theorem stackFaultEntryIsPrecise : Obligations.StackFaultEntryIsPrecise := by
  intro s hs
  constructor
  · intro nnn hd hsp
    have hu := execCall_full (s := s.advance) nnn hsp
    rw [State.raise_advance, (encode_decode hd).1] at hu
    exact step_raised hs hd hu Status.noConfusion
  · intro hd hsp
    have hu := execRet_empty (s := s.advance) hsp
    rw [State.raise_advance] at hu
    exact step_raised hs hd hu Status.noConfusion

/-- Settles O12, by the three cases of a step, of which only the execute phase can fault. -/
theorem onlyCallAndReturnFault : Obligations.OnlyCallAndReturnFault := by
  intro s t c a w hs h ht
  rcases step_cases h with ⟨_, _, _, hs', -⟩ | ⟨-, i, u, hd, hu, rfl⟩ | ⟨-, e, -, rfl⟩
  · cases hs.symm.trans hs'
  · have hr : u.status ≠ .running := by
      rw [← State.endStep_status, ht]; exact Status.noConfusion
    rw [State.endStep_of_not_running hr] at ht ⊢
    have hop : encode i = s.fetchWord := (encode_decode hd).1
    rcases exec_faulted_cases hu hs hr with ⟨nnn, hi, hsp, rfl⟩ | ⟨hi, hsp, rfl⟩ <;>
      rw [State.raise_advance, hop] at ht ⊢ <;> cases ht
    · exact ⟨.inl ⟨rfl, hsp, nnn, hi ▸ hd⟩, rfl, rfl, rfl⟩
    · exact ⟨.inr ⟨rfl, hsp, hi ▸ hd⟩, rfl, rfl, rfl⟩
  · rw [State.reportUnknown_running hs] at ht
    cases hs.symm.trans ht

end Sys2Proof.Machine
end

section
/-! SUPPORT. Timers and runs: the decay in one step (40_cycle.md R105; 44_keypad_timers.md R189 to R192), a machine that
steps in place (R187; 70_reset_and_hazards.md R267), and a faulted machine under any key schedule (60_exceptions.md R225). -/

namespace Sys2Proof.Machine

/-! ### The arms of `exec` -/

theorem exec_ldDtVx (x : Reg) (s : State) : exec (.ldDtVx x) s = .next (s.setDt (s.reg x)) := rfl

theorem exec_ldStVx (x : Reg) (s : State) : exec (.ldStVx x) s = .next (s.setSt (s.reg x)) := rfl

/-- Settles O41: each of the two is one timer write. -/
theorem timerWritesSetOneTimer : Obligations.TimerWritesSetOneTimer := fun x s =>
  ⟨⟨_, exec_ldDtVx x s, rfl, s.setDt_dt _⟩, ⟨_, exec_ldStVx x s, rfl, s.setSt_st _⟩⟩

/-! ### The decay in one step -/

theorem exec_dt_of_not_ldDtVx {i : Instr} {s u : State} (hu : exec i s = .next u) (hi : ∀ x, i ≠ .ldDtVx x) :
    u.dt = s.dt := by
  have hw : Element.delayTimer ∉ writes i := fun hw => (delayTimer_mem_writes_iff.1 hw).elim hi
  exact exec_sameOn hu hw

theorem exec_st_of_not_ldStVx {i : Instr} {s u : State} (hu : exec i s = .next u) (hi : ∀ x, i ≠ .ldStVx x) :
    u.st = s.st := by
  have hw : Element.soundTimer ∉ writes i := fun hw => (soundTimer_mem_writes_iff.1 hw).elim hi
  exact exec_sameOn hu hw

/-- Settles O9, by the three cases of a step: a completed one ends in the decay, and a raised fault leaves the timers. -/
theorem timersDecayOncePerCompletedStep : Obligations.TimersDecayOncePerCompletedStep := by
  intro s t h
  rcases step_cases h with ⟨c, a, w, hs, rfl⟩ | ⟨hs, i, u, hd, hu, rfl⟩ | ⟨hs, e, hd, rfl⟩
  · exact ⟨fun hr => absurd hs (by simp [hr]), fun _ => ⟨rfl, rfl⟩⟩
  · rw [State.endStep_status, hd]
    refine ⟨fun _ hr => ?completed, fun hr => ?raised⟩
    case completed =>
      rw [State.endStep_running hr, State.decay_dt, State.decay_st, decayTimer_toNat, decayTimer_toNat]
      refine ⟨fun x hi => ?_, fun hi => ?_, fun x hi => ?_, fun hi => ?_⟩
      · cases hi; cases hu; rfl
      · rw [exec_dt_of_not_ldDtVx hu fun x hx => hi x (congrArg Except.ok hx)]; rfl
      · cases hi; cases hu; rfl
      · rw [exec_st_of_not_ldStVx hu fun x hx => hi x (congrArg Except.ok hx)]; rfl
    case raised =>
      rw [State.endStep_of_not_running hr]
      rcases exec_faulted_cases hu hs hr with ⟨nnn, -, -, rfl⟩ | ⟨-, -, rfl⟩ <;> exact ⟨rfl, rfl⟩
  · rw [State.reportUnknown_running hs, hd]
    refine ⟨fun _ _ => ⟨fun x hi => ?_, fun _ => decayTimer_toNat s.dt, fun x hi => ?_, fun _ => decayTimer_toNat s.st⟩,
      fun hr => absurd hs hr⟩
    · cases hi
    · cases hi

/-- Settles O10: the decay of the step comes after the register or the timer is written. -/
theorem timerAccessComesBeforeTheDecay : Obligations.TimerAccessComesBeforeTheDecay := by
  intro s x hs
  refine ⟨fun hd => ?read, fun hd => ?writeDt, fun hd => ?writeSt⟩
  case read =>
    exact ⟨_, step_completed hs hd (exec_ldVxDt x s.advance) hs, s.advance.reg_setReg_self x s.dt, decayTimer_toNat s.dt⟩
  case writeDt => exact ⟨_, step_completed hs hd (exec_ldDtVx x s.advance) hs, decayTimer_toNat (s.reg x)⟩
  case writeSt => exact ⟨_, step_completed hs hd (exec_ldStVx x s.advance) hs, decayTimer_toNat (s.reg x)⟩

/-! ### A machine that steps in place -/

/-- Whatever the timers hold, a step does nothing but the decay. -/
def State.StepsInPlace (s : State) : Prop :=
  ∀ dt st, step { s with dt := dt, st := st } = .next (State.decay { s with dt := dt, st := st })

theorem State.StepsInPlace.steps {s : State} (h : s.StepsInPlace) (n : Nat) :
    ∃ t, s.steps n = .next t ∧ t = { s with dt := t.dt, st := t.st } ∧
      t.dt.toNat = s.dt.toNat - n ∧ t.st.toNat = s.st.toNat - n := by
  induction n generalizing s with
  | zero => exact ⟨s, rfl, rfl, rfl, rfl⟩
  | succ n ih =>
    have hdecay : s.decay.StepsInPlace := h
    obtain ⟨t, ht, hframe, hdt, hst⟩ := ih hdecay
    refine ⟨t, (State.steps_succ (h s.dt s.st) n).trans ht, hframe, ?_, ?_⟩
    · rw [hdt, State.decay_dt, decayTimer_toNat, Nat.sub_sub, Nat.add_comm]
    · rw [hst, State.decay_st, decayTimer_toNat, Nat.sub_sub, Nat.add_comm]

/-- Settles O40: the rewind takes the advance back, so a step at Fx0A with no key pressed is the decay alone. -/
theorem waitingForAKeyRunsOnlyTheTimers : Obligations.WaitingForAKeyRunsOnlyTheTimers := by
  intro x s n hs hd hnone
  refine State.StepsInPlace.steps (fun dt st => ?_) n
  have hback : s.pc + 2 - 2 = s.pc := BitVec.add_sub_cancel s.pc 2
  have hu := exec_ldVxK_of_noKey x (s := State.advance { s with dt := dt, st := st }) (lowestKey_eq_none hnone)
  rw [State.advance_pc, hback] at hu
  exact step_completed (s := { s with dt := dt, st := st }) hs hd hu hs

/-- Settles O42: a jump to its own address takes the advance back, so a step there is the decay alone. -/
theorem idleLoopChangesOnlyTheTimers : Obligations.IdleLoopChangesOnlyTheTimers := by
  intro s n hs hd
  refine State.StepsInPlace.steps (fun dt st => ?_) n
  exact step_completed (s := { s with dt := dt, st := st }) hs hd (exec_jp s.pc _) hs

/-! ### A faulted machine -/

/-- A round of a machine that is not running changes at most the keypad (R107). -/
theorem State.round_of_not_running {s : State} (h : s.status ≠ .running) (keyIn : Option (BitVec 16)) :
    ∃ k, s.round keyIn = .next (s.setKey k) := by
  cases keyIn with
  | none => exact ⟨s.key, step_of_not_running h⟩
  | some bits => exact ⟨_, step_of_not_running (s := s.writeKeyPort bits) h⟩

/-- Settles O13, by induction on the key schedule. -/
theorem faultedMachineStaysAsItIs : Obligations.FaultedMachineStaysAsItIs := by
  intro s ks hs
  induction ks generalizing s with
  | nil => exact ⟨s.key, rfl⟩
  | cons keyIn ks ih =>
    obtain ⟨k, hround⟩ := State.round_of_not_running hs keyIn
    obtain ⟨k', hrest⟩ := ih (s.setKey k) hs
    exact ⟨k', (State.rounds_cons hround ks).trans hrest⟩

end Sys2Proof.Machine
end

section
/-! SUPPORT. Control transfer: the call stack (41_flow.md R120, R122). -/

namespace Sys2Proof.Machine

/-! ### The two ends of the stack -/

theorem State.push_sp_toNat {s : State} (v : Word) (h : s.sp.toNat < 16) :
    (s.push v h).sp.toNat = s.sp.toNat + 1 := by
  rw [State.push_sp]
  bv_omega

theorem State.push_stack_get {s : State} (v : Word) (h : s.sp.toNat < 16) (k : Fin 16) :
    (s.push v h).stack.get k = if k.val = s.sp.toNat then v else s.stack.get k := by
  simp only [State.push_stack, Vector.get_eq_getElem, Vector.getElem_set, eq_comm]

theorem State.top_eq {s : State} (h : 0 < s.sp.toNat ∧ s.sp.toNat ≤ 16) {k : Fin 16} (hk : k.val + 1 = s.sp.toNat) :
    s.top h = s.stack.get k := by
  rw [State.top]
  congr 1
  exact Fin.ext (by simp only; omega)

/-- Settles O25: `execCall_push` and `execCall_full` are the two clauses. -/
theorem callPushesOrOverflows : Obligations.CallPushesOrOverflows := by
  intro nnn s hwf
  refine ⟨fun hsp => ?push, fun hsp => ?full⟩
  case push => exact ⟨_, execCall_push nnn hsp, rfl, State.push_sp_toNat s.pc hsp, State.push_stack_get s.pc hsp⟩
  case full =>
    have hn : nnn.toNat < 0x1000 := of_decide_eq_true hwf
    refine ⟨_, ?_, execCall_full nnn hsp⟩
    rw [encode, formatA_toNat, Nat.mod_eq_of_lt hn]
    rfl

/-- Settles O26: `execRet_pop` and `execRet_empty` are the two clauses. -/
theorem returnPopsOrUnderflows : Obligations.ReturnPopsOrUnderflows := by
  refine fun s => ⟨fun hpos hle => ?pop, execRet_empty⟩
  case pop =>
    refine ⟨_, execRet_pop ⟨hpos, hle⟩, rfl, ?_, fun k hk => State.top_eq ⟨hpos, hle⟩ hk⟩
    show (s.sp - 1).toNat + 1 = s.sp.toNat
    bv_omega

/-- Settles O27: the entry the call pushed is the one the return pops, and `sp` is back where it was. -/
theorem returnAfterCallResumesAfterTheCall : Obligations.ReturnAfterCallResumesAfterTheCall := by
  intro nnn s hsp
  have hpushed : ((s.push s.pc hsp).setPc nnn).sp.toNat = s.sp.toNat + 1 := State.push_sp_toNat s.pc hsp
  have hpop : 0 < ((s.push s.pc hsp).setPc nnn).sp.toNat ∧ ((s.push s.pc hsp).setPc nnn).sp.toNat ≤ 16 := by omega
  have hback : s.sp + 1 - 1 = s.sp := BitVec.add_sub_cancel s.sp 1
  have htop : ((s.push s.pc hsp).setPc nnn).top hpop = s.pc := by
    rw [State.top_eq hpop (k := ⟨s.sp.toNat, hsp⟩) hpushed.symm, State.setPc_stack, State.push_stack_get, if_pos rfl]
  refine ⟨_, _, execCall_push nnn hsp, execRet_pop hpop, ?_⟩
  rw [htop, State.drop, State.setPc_sp, State.push_sp, hback]
  rfl

end Sys2Proof.Machine
end

section
/-! SUPPORT. The ALU instructions that write the flag (42_alu.md R146 to R154). -/

namespace Sys2Proof.Machine

/-! ### The arms of `exec` -/

theorem exec_addR (x y : Reg) (s : State) : exec (.addR x y) s =
    .next (s.resultThenFlag x (s.reg x + s.reg y) (carryFlag (s.reg x) (s.reg y))) := rfl

theorem exec_sub (x y : Reg) (s : State) : exec (.sub x y) s =
    .next (s.flagThenResult x (greaterFlag (s.reg x) (s.reg y)) (s.reg x - s.reg y)) := rfl

theorem exec_subn (x y : Reg) (s : State) : exec (.subn x y) s =
    .next (s.flagThenResult x (greaterFlag (s.reg y) (s.reg x)) (s.reg y - s.reg x)) := rfl

theorem exec_shr (x y : Reg) (s : State) : exec (.shr x y) s =
    .next (s.flagThenResult x (shiftOutLow (s.reg x)) (s.reg x >>> 1)) := rfl

theorem exec_shl (x y : Reg) (s : State) : exec (.shl x y) s =
    .next (s.flagThenResult x (shiftOutHigh (s.reg x)) (s.reg x <<< 1)) := rfl

/-! ### Flags and results as numbers -/

theorem flagByte_toNat (b : Bool) : (flagByte b).toNat = b.toNat := by
  cases b <;> rfl

theorem carryFlag_eq (a b : Byte) : carryFlag a b = if a.toNat + b.toNat > 255 then 1 else 0 := by
  simp only [carryFlag, flagByte, decide_eq_true_eq]

theorem greaterFlag_eq (a b : Byte) : greaterFlag a b = if a.toNat > b.toNat then 1 else 0 := by
  simp only [greaterFlag, flagByte, decide_eq_true_eq]

theorem shiftOutLow_toNat (a : Byte) : (shiftOutLow a).toNat = a.toNat % 2 := by
  rw [shiftOutLow, flagByte_toNat, BitVec.getLsbD, Nat.toNat_testBit, Nat.pow_zero, Nat.div_one]

theorem shiftOutHigh_toNat (a : Byte) : (shiftOutHigh a).toNat = a.toNat / 128 := by
  have := a.isLt
  rw [shiftOutHigh, flagByte_toNat, BitVec.getLsbD, Nat.toNat_testBit]
  omega

theorem sub_toNat (a b : Byte) :
    (a - b).toNat = if a.toNat < b.toNat then a.toNat + 256 - b.toNat else a.toNat - b.toNat := by
  split <;> bv_omega

/-! ### Flag, then result -/

/-- An instruction that writes the flag and then the result leaves the result in `x[X]` and, where that is another
register, the flag in `x[15]`; it writes nothing else (R154). -/
theorem exec_flagThenResult {i : Instr} {s : State} {x : Reg} {flag result : Byte}
    (h : exec i s = .next (s.flagThenResult x flag result)) :
    ∃ t, exec i s = .next t ∧ t = { s with x := t.x } ∧ t.reg x = result ∧ (x ≠ 15 → t.reg 15 = flag) ∧
      ∀ q, q ≠ x → q ≠ 15 → t.reg q = s.reg q := by
  refine ⟨_, h, rfl, ?result, fun hx => ?flag, fun q hq hq15 => ?other⟩
  case result => rw [State.reg_flagThenResult, if_pos rfl]
  case flag => rw [State.reg_flagThenResult, if_neg hx.symm, if_pos rfl]
  case other => rw [State.reg_flagThenResult, if_neg hq, if_neg hq15]

/-- Settles O31: the flag is written last, so it stays where `x[X]` is the flag register. -/
theorem addRegisterSetsTheCarry : Obligations.AddRegisterSetsTheCarry := by
  intro x y s
  refine ⟨_, exec_addR x y s, rfl, fun hx => ?sum, ?carry, fun q hq hq15 => ?other⟩
  case sum => rw [State.reg_resultThenFlag, if_neg hx, if_pos rfl, BitVec.toNat_add]
  case carry => rw [State.reg_resultThenFlag, if_pos rfl, carryFlag_eq]
  case other => rw [State.reg_resultThenFlag, if_neg hq15, if_neg hq]

/-- A subtraction of `b` from `a` meets the clause of SUB and SUBN for that pair of operands. -/
theorem exec_subtracts {i : Instr} {s : State} {x : Reg} {a b : Byte}
    (h : exec i s = .next (s.flagThenResult x (greaterFlag a b) (a - b))) :
    ∃ t, exec i s = .next t ∧ t = { s with x := t.x } ∧
      (t.reg x).toNat = (if a.toNat < b.toNat then a.toNat + 256 - b.toNat else a.toNat - b.toNat) ∧
      (x ≠ 15 → t.reg 15 = if a.toNat > b.toNat then 1 else 0) ∧ ∀ q, q ≠ x → q ≠ 15 → t.reg q = s.reg q := by
  obtain ⟨t, ht, hframe, hresult, hflag, hother⟩ := exec_flagThenResult h
  exact ⟨t, ht, hframe, hresult ▸ sub_toNat a b, fun hx => (hflag hx).trans (greaterFlag_eq a b), hother⟩

/-- Settles O32: both are the same subtraction, with the operands exchanged. -/
theorem subtractionsSetTheStrictFlag : Obligations.SubtractionsSetTheStrictFlag := by
  intro x y s
  simp only [List.forall_mem_cons, List.not_mem_nil, false_imp_iff, implies_true, and_true]
  exact ⟨exec_subtracts (exec_sub x y s), exec_subtracts (exec_subn x y s)⟩

/-- Settles O33: the flag is the bit shifted out, read as a number. -/
theorem shiftsMoveOneBitIntoTheFlag : Obligations.ShiftsMoveOneBitIntoTheFlag := by
  intro x y s
  constructor
  · obtain ⟨t, ht, hframe, hresult, hflag, hother⟩ := exec_flagThenResult (exec_shr x y s)
    refine ⟨t, ht, hframe, ?_, fun hx => hflag hx ▸ shiftOutLow_toNat (s.reg x), hother⟩
    rw [hresult, BitVec.toNat_ushiftRight, Nat.shiftRight_one]
  · obtain ⟨t, ht, hframe, hresult, hflag, hother⟩ := exec_flagThenResult (exec_shl x y s)
    refine ⟨t, ht, hframe, ?_, fun hx => hflag hx ▸ shiftOutHigh_toNat (s.reg x), hother⟩
    rw [hresult, BitVec.toNat_shiftLeft, Nat.shiftLeft_eq, Nat.mul_comm]

end Sys2Proof.Machine
end

section
/-! SUPPORT. Keypad: the skips on a key (44_keypad_timers.md R185, R186, R191). -/

namespace Sys2Proof.Machine

theorem exec_skp (x : Reg) (s : State) : exec (.skp x) s = .next (s.skipIf (s.keyDown x)) := rfl

theorem exec_sknp (x : Reg) (s : State) : exec (.sknp x) s = .next (s.skipIf (!s.keyDown x)) := rfl

theorem State.keyDown_eq {s : State} {x : Reg} {k : Fin 16} (hk : (s.reg x).toNat % 16 = k.val) :
    s.keyDown x = s.key.get k := by
  rw [State.keyDown, Fin.ext ((keyOf_val (s.reg x)).trans hk)]

/-- Settles O38: both are `State.skipIf` on the key that the low nibble names, or on its negation. -/
theorem keySkipsTestTheNamedKey : Obligations.KeySkipsTestTheNamedKey := by
  intro x s k hk
  simp only [List.forall_mem_cons, List.not_mem_nil, false_imp_iff, implies_true, and_true, ← State.keyDown_eq hk]
  exact ⟨exec_skips (exec_skp x s), exec_skips (exec_sknp x s)⟩

end Sys2Proof.Machine
end

section
/-! SUPPORT. Memory: the fetch (40_cycle.md R101; 10_state.md R23) and the instructions that store and load bytes
(45_index_memory.md R203 to R205; 20_memory.md R62). -/

namespace Sys2Proof.Machine

/-! ### The fetch -/

/-- Only the address modulo 4096 matters to the read of a word. -/
theorem Memory.readWord_congr (m : Memory) {a b : Nat} (h : a % 4096 = b % 4096) : m.readWord a = m.readWord b := by
  have hnext : (a + 1) % 4096 = (b + 1) % 4096 := Nat.ModEq.add_right 1 h
  exact congrArg₂ wordOfBytes (m.read_congr h) (m.read_congr hnext)

/-- Settles O6: the two reads reduce their addresses modulo 4096. -/
theorem fetchReadsTwoBytesBigEndian : Obligations.FetchReadsTwoBytesBigEndian := by
  intro s
  have hhi : s.mem.read (s.pc.toNat % 4096) = s.mem.read s.pc.toNat := s.mem.read_congr (Nat.mod_mod _ _)
  have hlo : s.mem.read ((s.pc.toNat + 1) % 4096) = s.mem.read (s.pc.toNat + 1) := s.mem.read_congr (Nat.mod_mod _ _)
  rw [hhi, hlo]
  exact wordOfBytes_toNat _ _

/-- Settles O7: 4096 more is the same address modulo 4096, also where `pc` wraps at 65536. -/
theorem fetchIgnoresThePcAboveTwelveBits : Obligations.FetchIgnoresThePcAboveTwelveBits := by
  refine fun s => ⟨s.mem.readWord_congr ?same, fun heq => ?differ⟩
  case same =>
    have hpc : (s.pc + 4096).toNat = (s.pc.toNat + 4096) % 65536 := BitVec.toNat_add ..
    rw [hpc]
    omega
  case differ =>
    have hpc := congrArg State.pc heq
    simp only at hpc
    bv_omega

/-! ### A run of bytes stored from `I` up -/

theorem State.read_stored (s : State) {vs : List Byte} (hl : vs.length ≤ 4096) {k : Nat} (hk : k < vs.length) :
    (s.mem.writeBytes (s.effAddr 0) vs).read (s.effAddr k) = vs[k] :=
  s.mem.read_writeBytes_inside (s.effAddr 0) k vs hl hk

theorem State.read_not_stored (s : State) {vs : List Byte} {a : Nat}
    (h : ∀ k < vs.length, a % 4096 ≠ s.effAddr k % 4096) :
    (s.mem.writeBytes (s.effAddr 0) vs).read a = s.mem.read a :=
  s.mem.read_writeBytes_outside (s.effAddr 0) a vs h

theorem exec_ldB (x : Reg) (s : State) :
    exec (.ldB x) s = .next (s.setMem (s.mem.writeBytes (s.effAddr 0) (digits (s.reg x)))) := rfl

/-- Settles O44: the three digits are the run of bytes stored. -/
theorem decimalDigitsAreStored : Obligations.DecimalDigitsAreStored := by
  intro x s
  have stored : ∀ k (hk : k < 3),
      (s.mem.writeBytes (s.effAddr 0) (digits (s.reg x))).read (s.effAddr k) = (digits (s.reg x))[k] :=
    fun k hk => s.read_stored (Nat.le_of_ble_eq_true rfl) hk
  refine ⟨_, exec_ldB x s, rfl, ?hundreds, ?tens, ?ones, fun a ha => s.read_not_stored ha⟩
  case hundreds => exact congrArg BitVec.toNat (stored 0 (by decide))
  case tens => exact congrArg BitVec.toNat (stored 1 (by decide))
  case ones => exact congrArg BitVec.toNat (stored 2 (by decide))

theorem exec_stRegs (x : Reg) (s : State) :
    exec (.stRegs x) s = .next (s.setMem (s.mem.writeBytes (s.effAddr 0) (s.regBlock x))) := rfl

theorem exec_ldRegs (x : Reg) (s : State) : exec (.ldRegs x) s = .next (s.setRegs (s.loadedRegs x)) := rfl

/-- The block of registers that Fx55 stores, read back at its addresses. -/
theorem State.read_stored_regBlock (s : State) {x k : Reg} (hk : k ≤ x) :
    (s.mem.writeBytes (s.effAddr 0) (s.regBlock x)).read (s.effAddr k.val) = s.reg k := by
  have hlen := s.regBlock_length x
  have hin : k.val < (s.regBlock x).length := hlen ▸ Nat.lt_succ_of_le hk
  rw [s.read_stored (by omega) hin, State.regBlock_getElem]

/-- Settles O45: the registers up to `X` are the run of bytes stored. -/
theorem registerBlockIsStored : Obligations.RegisterBlockIsStored := by
  refine fun x s => ⟨_, exec_stRegs x s, rfl, fun k hk => s.read_stored_regBlock hk, fun a ha => ?outside⟩
  case outside =>
    refine s.read_not_stored fun k hk => ?_
    rw [State.regBlock_length] at hk
    exact ha ⟨k, hk.trans_le x.isLt⟩ (Nat.le_of_lt_succ hk)

/-- Settles O46: Fx65 replaces the register file by `State.loadedRegs`. -/
theorem registerBlockIsLoaded : Obligations.RegisterBlockIsLoaded :=
  fun x s => ⟨_, exec_ldRegs x s, rfl, s.loadedRegs_get x⟩

/-- Settles O47: the load reads the block at the addresses the store wrote it to. -/
theorem loadAfterStoreRestoresTheRegisters : Obligations.LoadAfterStoreRestoresTheRegisters := by
  refine fun x s other => ⟨_, _, exec_stRegs x s, exec_ldRegs x _, fun q hq => ?_⟩
  rw [State.reg_setRegs, State.loadedRegs_get, if_pos hq]
  exact s.read_stored_regBlock hq

/-- Settles O48: the two addresses of the next fetch are, modulo 4096, those of the first two bytes stored. -/
theorem storedBytesAreTheNextWordFetched : Obligations.StoredBytesAreTheNextWordFetched := by
  intro x s hs hd hx hI
  refine ⟨_, step_completed hs hd (exec_stRegs x s.advance) hs, rfl, ?_⟩
  have hfirst := s.advance.read_stored_regBlock (Fin.zero_le x)
  have hsecond := s.advance.read_stored_regBlock hx
  exact (Memory.readWord_congr _ hI.symm).trans (congrArg₂ wordOfBytes hfirst hsecond)

end Sys2Proof.Machine
end

section
/-! SUPPORT. Display: the sprite as a set of cells to toggle (43_display.md R171 to R173). -/

namespace Sys2Proof.Machine

/-! ### Toggling a set of cells -/

/-- From `k` to `k'` the cells of `p` are toggled, and a hit is recorded if one of them was on. -/
def Canvas.Toggles (k k' : Canvas) (p : Fin 32 → Fin 64 → Bool) : Prop :=
  (∀ r c, k'.disp.cell r c = (k.disp.cell r c ^^ p r c)) ∧
  (k'.hit = true ↔ k.hit = true ∨ ∃ r c, p r c = true ∧ k.disp.cell r c = true)

theorem Canvas.toggles_none (k : Canvas) : k.Toggles k fun _ _ => false := by
  simp [Canvas.Toggles]

/-- Two disjoint sets toggled one after the other: no cell is met twice, so the second set meets the cells as they were
before the first. -/
theorem Canvas.Toggles.trans {k k' k'' : Canvas} {p q : Fin 32 → Fin 64 → Bool} (h : k.Toggles k' p)
    (h' : k'.Toggles k'' q) (hdisj : ∀ r c, q r c = true → p r c = false) :
    k.Toggles k'' fun r c => p r c || q r c := by
  obtain ⟨hcell, hhit⟩ := h
  obtain ⟨hcell', hhit'⟩ := h'
  have hsame : ∀ r c, q r c = true → k'.disp.cell r c = k.disp.cell r c := fun r c hq => by
    rw [hcell, hdisj r c hq, Bool.xor_false]
  refine ⟨fun r c => ?cell, ?hit⟩
  case cell =>
    rw [hcell', hcell]
    cases hq : q r c with
    | true => simp [hq, hdisj r c hq]
    | false => simp [hq]
  case hit =>
    rw [hhit', hhit, or_assoc]
    simp only [Bool.or_eq_true, or_and_right, exists_or]
    refine or_congr_right (or_congr_right (exists_congr fun r => exists_congr fun c => ?_))
    exact and_congr_right fun hq => by rw [hsame r c hq]

/-! ### The sprite -/

/-- The pixel of one sprite row `b`, placed at column `px` of row `cy`, that lands on row `r`, column `c`. -/
def rowPixel (px cy : Nat) (b : Byte) (r : Fin 32) (c : Fin 64) : Bool :=
  decide (r.val = cy ∧ px ≤ c.val ∧ c.val < px + 8) && spriteBit b (c.val - px)

/-- The pixel of a sprite of `n` rows from address `a` up, placed at column `px`, row `py`, that lands on row `r`,
column `c`. -/
def spritePixelAt (m : Memory) (a px py n : Nat) (r : Fin 32) (c : Fin 64) : Bool :=
  decide (py ≤ r.val ∧ r.val < py + n ∧ px ≤ c.val ∧ c.val < px + 8) &&
    spriteBit (m.read (a + (r.val - py))) (c.val - px)

theorem State.spritePixel_eq (s : State) (x y : Reg) (n : Nat) : s.spritePixel x y n =
    spritePixelAt s.mem (s.effAddr 0) (spriteColumn (s.reg x)) (spriteRow (s.reg y)) n := rfl

theorem Canvas.toggles_row (k : Canvas) (px cy : Nat) (b : Byte) : k.Toggles (k.row px cy b) (rowPixel px cy b) := by
  obtain ⟨hcell, hhit⟩ := Canvas.row_prefix k px cy b 8
  have hpixel : ∀ (r : Fin 32) (c : Fin 64), rowPixel px cy b r c =
      decide (r.val = cy ∧ px ≤ c.val ∧ c.val < px + 8 ∧ spriteBit b (c.val - px) = true) := fun r c => by
    simp [rowPixel, Bool.decide_and, Bool.and_assoc]
  simp only [Canvas.Toggles, hpixel, decide_eq_true_eq]
  exact ⟨hcell, hhit⟩

theorem spritePixelAt_succ (m : Memory) (a px py n : Nat) (r : Fin 32) (c : Fin 64) :
    spritePixelAt m a px py (n + 1) r c =
      (spritePixelAt m a px py n r c || rowPixel px (py + n) (m.read (a + n)) r c) := by
  by_cases hr : r.val = py + n
  · simp [spritePixelAt, rowPixel, hr]
  · have hlt : r.val < py + (n + 1) ↔ r.val < py + n := by omega
    simp [spritePixelAt, rowPixel, hr, hlt]

/-- The drawing loop toggles the cells under the sprite's set pixels. -/
theorem Canvas.toggles_sprite (k : Canvas) (m : Memory) (a px py n : Nat) :
    k.Toggles (k.sprite m a px py n) (spritePixelAt m a px py n) := by
  induction n with
  | zero =>
    have hnone : spritePixelAt m a px py 0 = fun _ _ => false := by
      funext r c
      have hempty : ¬(py ≤ r.val ∧ r.val < py + 0 ∧ px ≤ c.val ∧ c.val < px + 8) := by omega
      rw [spritePixelAt, decide_eq_false hempty, Bool.false_and]
    exact hnone ▸ k.toggles_none
  | succ n ih =>
    have hloop : k.sprite m a px py (n + 1) = (k.sprite m a px py n).row px (py + n) (m.read (a + n)) := by
      rw [Canvas.sprite, List.range_succ, List.foldl_append]
      rfl
    have hpixel : spritePixelAt m a px py (n + 1) =
        fun r c => spritePixelAt m a px py n r c || rowPixel px (py + n) (m.read (a + n)) r c := by
      funext r c
      exact spritePixelAt_succ m a px py n r c
    rw [hloop, hpixel]
    refine ih.trans (Canvas.toggles_row _ _ _ _) fun r c hrow => ?_
    have hr : ¬ r.val < py + n := by
      simp only [rowPixel, Bool.and_eq_true, decide_eq_true_eq] at hrow
      omega
    simp [spritePixelAt, hr]

/-! ### The draw -/

theorem exec_drw (x y : Reg) (n : Nat) (s : State) : exec (.drw x y n) s =
    .next ((s.setDisp (s.drawn x y n).disp).setReg vf (collisionFlag (s.drawn x y n).hit)) := rfl

theorem State.cell_drawn (s : State) (x y : Reg) (n : Nat) (r : Fin 32) (c : Fin 64) :
    (s.drawn x y n).disp.cell r c = (s.disp.cell r c ^^ s.spritePixel x y n r c) :=
  (Canvas.toggles_sprite ⟨s.disp, false⟩ s.mem _ _ _ n).1 r c

theorem State.hit_drawn (s : State) (x y : Reg) (n : Nat) :
    (s.drawn x y n).hit = true ↔ ∃ r c, s.spritePixel x y n r c = true ∧ s.disp.cell r c = true :=
  (Canvas.toggles_sprite ⟨s.disp, false⟩ s.mem _ _ _ n).2.trans (by simp [State.spritePixel_eq])

/-- Settles O36: the drawing loop toggles the cells of the sprite, and its hit is the collision. -/
theorem drawIsExclusiveOrWithCollision : Obligations.DrawIsExclusiveOrWithCollision := by
  intro x y n s
  refine ⟨_, exec_drw x y n s, rfl, s.cell_drawn x y n, fun hhit => ?on, fun hmiss => ?off,
    fun q hq => State.reg_setReg_ne _ hq _⟩
  case on => rw [State.reg_setReg_self, (s.hit_drawn x y n).2 hhit]; rfl
  case off =>
    rw [← s.hit_drawn x y n, Bool.not_eq_true] at hmiss
    rw [State.reg_setReg_self, hmiss]; rfl

theorem Display.ext_cell {d d' : Display} (h : ∀ r c, d.cell r c = d'.cell r c) : d = d' := by
  apply Vector.ext
  intro r hr
  apply Vector.ext
  intro c hc
  exact h ⟨r, hr⟩ ⟨c, hc⟩

/-- Settles O37: the first draw leaves what places the sprite, so the second toggles the same cells back, and a set pixel
meets a lit cell the second time exactly when it met a dark one the first time. -/
theorem drawingTwiceRestoresTheDisplay : Obligations.DrawingTwiceRestoresTheDisplay := by
  intro x y n s hx hy
  obtain ⟨t, ht, htframe, htcell, -, -, htreg⟩ := drawIsExclusiveOrWithCollision x y n s
  obtain ⟨u, hu, huframe, hucell, huon, huoff, -⟩ := drawIsExclusiveOrWithCollision x y n t
  have hmem : t.mem = s.mem := by rw [htframe]
  have hI : t.I = s.I := by rw [htframe]
  have hpixel : t.spritePixel x y n = s.spritePixel x y n := by
    funext r c
    simp only [State.spritePixel, hmem, hI, htreg x hx, htreg y hy]
  have hdisp : u.disp = s.disp := Display.ext_cell fun r c => by
    rw [hucell, htcell, hpixel, Bool.xor_assoc, Bool.xor_self, Bool.xor_false]
  refine ⟨t, u, ht, hu, ?restored, ?collides⟩
  case restored => rw [huframe, hdisp, htframe]
  case collides =>
    have hflag : u.reg 15 = 1 ↔ ∃ r c, t.spritePixel x y n r c = true ∧ t.disp.cell r c = true := by
      refine ⟨fun hone => ?_, huon⟩
      by_contra hmiss
      exact absurd ((huoff hmiss).symm.trans hone) (by decide)
    rw [hflag, hpixel]
    refine exists_congr fun r => exists_congr fun c => and_congr_right fun hp => ?_
    rw [htcell, hp, Bool.xor_true, Bool.not_eq_true']

end Sys2Proof.Machine
end

section
/-! SUPPORT. Reset (10_state.md R36), the calling contract of `load` (40_cycle.md R111, R112) and the host's ports
(60_exceptions.md R240 to R242). -/

namespace Sys2Proof.Machine

/-! ### Reset -/

theorem State.read_reset {a : Nat} (ha : a < 4096) : State.reset.mem.read a = Memory.resetByte a :=
  congrArg Memory.resetByte (Nat.mod_eq_of_lt ha)

theorem Memory.resetByte_below_font {a : Nat} (h : a < 0x50) : Memory.resetByte a = 0 := if_pos h

theorem Memory.resetByte_font {k : Nat} (h : k < Config.font.length) : Memory.resetByte (0x50 + k) = Config.font[k] := by
  rw [Memory.resetByte, if_neg (Nat.not_lt.2 (Nat.le_add_right _ _)), Nat.add_sub_cancel_left,
    List.getD_eq_getElem _ _ h]

/-- Settles O1: reset memory lists nothing, so it reads as the font between zeros; the other elements are constant. -/
theorem resetLeavesTheTableOfValues : Obligations.ResetLeavesTheTableOfValues := by
  refine ⟨rfl, rfl, rfl, fun a ha => ?zeros, fun k hk => ?font, rfl, rfl, fun r => ?regs, rfl, rfl, fun k => ⟨?stack, ?key⟩,
    rfl, rfl, Display.cell_blank⟩
  case zeros =>
    rcases ha with hbelow | ⟨habove, hlt⟩
    · rw [State.read_reset (by omega), Memory.resetByte_below_font hbelow]
    · exact State.read_reset_above_font habove hlt
  case font =>
    have hlen : k < 80 := hk
    rw [State.read_reset (by omega), Memory.resetByte_font hk]
  case regs => exact Vector.getElem_replicate r.isLt
  case stack => exact Vector.getElem_replicate k.isLt
  case key => exact Vector.getElem_replicate k.isLt

/-- Settles O2: reset memory lists nothing, and the stack is empty. -/
theorem resetMeetsTheInvariant : Obligations.ResetMeetsTheInvariant := ⟨Memory.wf_nil, Nat.zero_le 16⟩

/-! ### The calling contract of `load` -/

theorem Session.load_too_long {h : Session} {image : List Byte} (hf : h.phase = .fresh) (hl : 3584 < image.length) :
    h.load image = (.loadError, h) := by
  simp [Session.load, hf, hl]

theorem Session.load_of_not_fresh {h : Session} (hf : h.phase ≠ .fresh) (image : List Byte) :
    h.load image = (.refused, h) := by
  cases hp : h.phase with
  | fresh => exact absurd hp hf
  | loaded | stepped => simp [Session.load, hp]

theorem Session.load_refused_iff {h : Session} {image : List Byte} :
    (h.load image).1 = .refused ↔ h.phase ≠ .fresh := by
  refine ⟨fun hr hf => ?_, fun hf => by rw [Session.load_of_not_fresh hf]⟩
  rcases Nat.lt_or_ge 3584 image.length with hl | hl
  · rw [Session.load_too_long hf hl] at hr; cases hr
  · rw [Session.load_fitting hf hl] at hr; cases hr

theorem Session.step_phase {h g : Session} (hg : h.step = .next g) : g.phase = .stepped := by
  unfold Session.step at hg
  split at hg <;> cases hg
  rfl

/-- Settles O51: a load is refused exactly when the session is no longer fresh. -/
theorem loadOutsideItsContractChangesNothing : Obligations.LoadOutsideItsContractChangesNothing := by
  refine fun h image image' => ⟨Session.load_too_long, fun hf hl => ?second, fun g hg => ?stepped,
    fun hr keyIn bytes => ?lasting⟩
  case second =>
    rw [Session.load_fitting hf hl]
    exact Session.load_of_not_fresh (by simp) image'
  case stepped =>
    have hstepped := Session.step_phase hg
    exact Session.load_of_not_fresh (by simp [hstepped]) image
  case lasting =>
    have hf := Session.load_refused_iff.1 hr
    simp only [List.forall_mem_cons, List.not_mem_nil, false_imp_iff, implies_true, and_true]
    exact ⟨Session.load_of_not_fresh hf image', Session.load_of_not_fresh (h := h.writeKeyPort keyIn) hf image',
      Session.load_of_not_fresh (h := h.supplyRandom bytes) hf image'⟩

/-! ### The ports -/

theorem State.writeKeyPort_get (s : State) (keyIn : BitVec 16) (k : Fin 16) :
    (s.writeKeyPort keyIn).key.get k = keyIn.getLsbD k.val := by
  simp [State.writeKeyPort, Vector.get_eq_getElem]

/-- The output is the display read row by row. -/
theorem State.displayOut_eq (s : State) : s.displayOut = s.disp.flatten.toList := by
  rcases hd : s.disp with ⟨⟨rows⟩, hrows⟩
  simp only [State.displayOut, hd, List.flatMap_def, Vector.flatten_mk, List.map_toArray, Array.flatten_toArray,
    List.map_map]
  rfl

theorem State.displayOut_length (s : State) : s.displayOut.length = 2048 := by
  rw [State.displayOut_eq, Vector.length_toList]

theorem State.displayOut_cell (s : State) (r : Fin 32) (c : Fin 64) :
    s.displayOut[64 * r.val + c.val]? = some (s.disp.cell r c) := by
  have hlt : 64 * r.val + c.val < 32 * 64 := by omega
  have hrow : (64 * r.val + c.val) / 64 = r.val := by omega
  have hcol : (64 * r.val + c.val) % 64 = c.val := by omega
  rw [State.displayOut_eq, Vector.getElem?_toList, Vector.getElem?_eq_getElem hlt, Vector.getElem_flatten]
  simp only [hrow, hcol]
  rfl

theorem State.soundOn_iff (s : State) : s.soundOn = true ↔ 0 < s.st.toNat := by
  rw [State.soundOn, bne_iff_ne, ne_eq, ← BitVec.toNat_inj, Nat.pos_iff_ne_zero]
  rfl

/-- Settles O52: the display output is the rows of the display one after the other. -/
theorem hostPortsCarryTheirBits : Obligations.HostPortsCarryTheirBits := fun s keyIn =>
  ⟨⟨_, rfl, rfl, s.writeKeyPort_get keyIn⟩, s.displayOut_length, s.displayOut_cell, s.soundOn_iff⟩

end Sys2Proof.Machine
end
